-- ==== Sys2Proof/Word.lean ====
section
/-! DEFINITION. The word types of the chip8-rs CORE (spec 00_scope.md R6, R9): bytes of 8 bits, words and
addresses held in registers of 16 bits, 4-bit register numbers and row counts. Only what the spec treats as
bits is a bit vector; an effective address is a `Nat` (20_memory.md R55). -/

namespace Sys2Proof

/-- `XLEN` = 8: a general register, a timer, a byte of memory, the immediate `nn` (R6, R72). -/
abbrev Byte := BitVec 8

/-- `ILEN` = `AWIDTH_REG` = 16: an instruction word, I, PC, an entry of the call stack (R6). -/
abbrev Word := BitVec 16

/-- A nibble: the fields `x`, `y` and `n` (R72). -/
abbrev Nibble := BitVec 4

/-- A register number 0 to 15, the fields `x` and `y` (R20): four bits, so none is out of range. -/
abbrev Reg := BitVec 4

/-- The 12-bit field `nnn` (R72). -/
abbrev Addr12 := BitVec 12

/-- The 64 x 32 display, one bit a pixel, held as its 32 rows of 64 (10_state.md R28): the pixel in column `px` and row
`py` is bit `px` of row `py`. -/
abbrev Display := Vector (BitVec 64) 32

/-- `zext_16` of a byte (R10). -/
abbrev zextByte (b : Byte) : Word := b.setWidth 16

/-- `zext_16` of a 12-bit address (R10, R72). -/
abbrev zextAddr (a : Addr12) : Word := a.setWidth 16

end Sys2Proof
end

