-- ==== Sys2Proof/Syntax.lean ====
section
/-! DEFINITION. The 34 instructions of the chip8-rs CORE, one constructor for each row of
spec/opcode_table.json (30_encoding.md R74), in the table's order. The operand widths are those of R72, so an
operand out of range cannot be written down. A word that is no instruction is no `Instr` (R76, R95). -/

namespace Sys2Proof

inductive Instr where
  /-- 00E0 `CLS` (R170) -/
  | cls
  /-- 00EE `RET` (R110) -/
  | ret
  /-- 1nnn `JP nnn` (R111) -/
  | jp (nnn : Addr12)
  /-- 2nnn `CALL nnn` (R112) -/
  | call (nnn : Addr12)
  /-- 3xnn `SE.I Vx, nn` (R113) -/
  | seImm (x : Reg) (nn : Byte)
  /-- 4xnn `SNE.I Vx, nn` (R114) -/
  | sneImm (x : Reg) (nn : Byte)
  /-- 5xy0 `SE.R Vx, Vy` (R115) -/
  | seReg (x y : Reg)
  /-- 6xnn `LD.I Vx, nn` (R130) -/
  | ldImm (x : Reg) (nn : Byte)
  /-- 7xnn `ADD.I Vx, nn` (R131) -/
  | addImm (x : Reg) (nn : Byte)
  /-- 8xy0 `LD.R Vx, Vy` (R132) -/
  | ldReg (x y : Reg)
  /-- 8xy1 `OR Vx, Vy` (R133) -/
  | orReg (x y : Reg)
  /-- 8xy2 `AND Vx, Vy` (R134) -/
  | andReg (x y : Reg)
  /-- 8xy3 `XOR Vx, Vy` (R135) -/
  | xorReg (x y : Reg)
  /-- 8xy4 `ADD.R Vx, Vy` (R136) -/
  | addReg (x y : Reg)
  /-- 8xy5 `SUB Vx, Vy` (R137) -/
  | subReg (x y : Reg)
  /-- 8xy6 `SHR Vx, Vy` (R138); `y` is in the word and ignored -/
  | shr (x y : Reg)
  /-- 8xy7 `SUBN Vx, Vy` (R139) -/
  | subn (x y : Reg)
  /-- 8xyE `SHL Vx, Vy` (R140); `y` is in the word and ignored -/
  | shl (x y : Reg)
  /-- 9xy0 `SNE.R Vx, Vy` (R116) -/
  | sneReg (x y : Reg)
  /-- Annn `LDI nnn` (R150) -/
  | ldIndex (nnn : Addr12)
  /-- Bnnn `JP.V0 nnn` (R117) -/
  | jpV0 (nnn : Addr12)
  /-- Cxnn `RND Vx, nn` (R141) -/
  | rnd (x : Reg) (nn : Byte)
  /-- Dxyn `DRW Vx, Vy, n` (R171) -/
  | drw (x y : Reg) (n : Nibble)
  /-- Ex9E `SKP Vx` (R180) -/
  | skp (x : Reg)
  /-- ExA1 `SKNP Vx` (R181) -/
  | sknp (x : Reg)
  /-- Fx07 `LD.DT Vx` (R182) -/
  | ldDelay (x : Reg)
  /-- Fx0A `WKEY Vx` (R183) -/
  | waitKey (x : Reg)
  /-- Fx15 `ST.DT Vx` (R184) -/
  | setDelay (x : Reg)
  /-- Fx18 `ST.ST Vx` (R185) -/
  | setSound (x : Reg)
  /-- Fx1E `ADDI Vx` (R151) -/
  | addIndex (x : Reg)
  /-- Fx29 `FONT Vx` (R152) -/
  | font (x : Reg)
  /-- Fx33 `BCD Vx` (R153) -/
  | bcd (x : Reg)
  /-- Fx55 `STM Vx` (R154) -/
  | stm (x : Reg)
  /-- Fx65 `LDM Vx` (R155) -/
  | ldm (x : Reg)
  deriving DecidableEq, Repr

end Sys2Proof
end

