-- ==== Sys2Proof/WellFormed.lean ====
section
/-! DEFINITION. What is well formed, in this machine, is a WORD. Every operand of `Instr` has exactly the range the
spec gives it in its type (R72: four bits, eight, twelve), so no ill-formed `Instr` can be written down and there is
nothing to check on one; a 16-bit word, on the other hand, may be an instruction or not. The check on words is the
spec's opcode map (30_encoding.md R74, R75): a word is instruction `m` when `w & mask(m) == match(m)`. The decoder
(Decode.lean) is written from the two-level dispatch of R73 instead; that the two agree is an obligation. -/

namespace Sys2Proof

/-- One row of the opcode map (R74). -/
structure OpcodeRow where
  mnemonic : String
  bits : Word
  mask : Word
  deriving DecidableEq, Repr

/-- `w & mask(m) == match(m)` (R74); every fixed digit of the pattern must be present (R75). -/
def OpcodeRow.fits (r : OpcodeRow) (w : Word) : Bool := w &&& r.mask == r.bits

/-- The row of an instruction (R74). -/
def Instr.row : Instr → OpcodeRow
  | .cls => ⟨"CLS", 0x00E0#16, 0xFFFF#16⟩
  | .ret => ⟨"RET", 0x00EE#16, 0xFFFF#16⟩
  | .jp _ => ⟨"JP", 0x1000#16, 0xF000#16⟩
  | .call _ => ⟨"CALL", 0x2000#16, 0xF000#16⟩
  | .seImm _ _ => ⟨"SE.I", 0x3000#16, 0xF000#16⟩
  | .sneImm _ _ => ⟨"SNE.I", 0x4000#16, 0xF000#16⟩
  | .seReg _ _ => ⟨"SE.R", 0x5000#16, 0xF00F#16⟩
  | .ldImm _ _ => ⟨"LD.I", 0x6000#16, 0xF000#16⟩
  | .addImm _ _ => ⟨"ADD.I", 0x7000#16, 0xF000#16⟩
  | .ldReg _ _ => ⟨"LD.R", 0x8000#16, 0xF00F#16⟩
  | .orReg _ _ => ⟨"OR", 0x8001#16, 0xF00F#16⟩
  | .andReg _ _ => ⟨"AND", 0x8002#16, 0xF00F#16⟩
  | .xorReg _ _ => ⟨"XOR", 0x8003#16, 0xF00F#16⟩
  | .addReg _ _ => ⟨"ADD.R", 0x8004#16, 0xF00F#16⟩
  | .subReg _ _ => ⟨"SUB", 0x8005#16, 0xF00F#16⟩
  | .shr _ _ => ⟨"SHR", 0x8006#16, 0xF00F#16⟩
  | .subn _ _ => ⟨"SUBN", 0x8007#16, 0xF00F#16⟩
  | .shl _ _ => ⟨"SHL", 0x800E#16, 0xF00F#16⟩
  | .sneReg _ _ => ⟨"SNE.R", 0x9000#16, 0xF00F#16⟩
  | .ldIndex _ => ⟨"LDI", 0xA000#16, 0xF000#16⟩
  | .jpV0 _ => ⟨"JP.V0", 0xB000#16, 0xF000#16⟩
  | .rnd _ _ => ⟨"RND", 0xC000#16, 0xF000#16⟩
  | .drw _ _ _ => ⟨"DRW", 0xD000#16, 0xF000#16⟩
  | .skp _ => ⟨"SKP", 0xE09E#16, 0xF0FF#16⟩
  | .sknp _ => ⟨"SKNP", 0xE0A1#16, 0xF0FF#16⟩
  | .ldDelay _ => ⟨"LD.DT", 0xF007#16, 0xF0FF#16⟩
  | .waitKey _ => ⟨"WKEY", 0xF00A#16, 0xF0FF#16⟩
  | .setDelay _ => ⟨"ST.DT", 0xF015#16, 0xF0FF#16⟩
  | .setSound _ => ⟨"ST.ST", 0xF018#16, 0xF0FF#16⟩
  | .addIndex _ => ⟨"ADDI", 0xF01E#16, 0xF0FF#16⟩
  | .font _ => ⟨"FONT", 0xF029#16, 0xF0FF#16⟩
  | .bcd _ => ⟨"BCD", 0xF033#16, 0xF0FF#16⟩
  | .stm _ => ⟨"STM", 0xF055#16, 0xF0FF#16⟩
  | .ldm _ => ⟨"LDM", 0xF065#16, 0xF0FF#16⟩

/-- The opcode map, row for row (R74): the control, compare and immediate rows. -/
def opcodeRowsLow : List OpcodeRow := [
  ⟨"CLS", 0x00E0#16, 0xFFFF#16⟩,
  ⟨"RET", 0x00EE#16, 0xFFFF#16⟩,
  ⟨"JP", 0x1000#16, 0xF000#16⟩,
  ⟨"CALL", 0x2000#16, 0xF000#16⟩,
  ⟨"SE.I", 0x3000#16, 0xF000#16⟩,
  ⟨"SNE.I", 0x4000#16, 0xF000#16⟩,
  ⟨"SE.R", 0x5000#16, 0xF00F#16⟩,
  ⟨"LD.I", 0x6000#16, 0xF000#16⟩,
  ⟨"ADD.I", 0x7000#16, 0xF000#16⟩]

/-- Family 0x8, and families 0x9 to 0xD (R74). -/
def opcodeRowsMid : List OpcodeRow := [
  ⟨"LD.R", 0x8000#16, 0xF00F#16⟩,
  ⟨"OR", 0x8001#16, 0xF00F#16⟩,
  ⟨"AND", 0x8002#16, 0xF00F#16⟩,
  ⟨"XOR", 0x8003#16, 0xF00F#16⟩,
  ⟨"ADD.R", 0x8004#16, 0xF00F#16⟩,
  ⟨"SUB", 0x8005#16, 0xF00F#16⟩,
  ⟨"SHR", 0x8006#16, 0xF00F#16⟩,
  ⟨"SUBN", 0x8007#16, 0xF00F#16⟩,
  ⟨"SHL", 0x800E#16, 0xF00F#16⟩,
  ⟨"SNE.R", 0x9000#16, 0xF00F#16⟩,
  ⟨"LDI", 0xA000#16, 0xF000#16⟩,
  ⟨"JP.V0", 0xB000#16, 0xF000#16⟩,
  ⟨"RND", 0xC000#16, 0xF000#16⟩,
  ⟨"DRW", 0xD000#16, 0xF000#16⟩]

/-- Families 0xE and 0xF (R74). -/
def opcodeRowsHigh : List OpcodeRow := [
  ⟨"SKP", 0xE09E#16, 0xF0FF#16⟩,
  ⟨"SKNP", 0xE0A1#16, 0xF0FF#16⟩,
  ⟨"LD.DT", 0xF007#16, 0xF0FF#16⟩,
  ⟨"WKEY", 0xF00A#16, 0xF0FF#16⟩,
  ⟨"ST.DT", 0xF015#16, 0xF0FF#16⟩,
  ⟨"ST.ST", 0xF018#16, 0xF0FF#16⟩,
  ⟨"ADDI", 0xF01E#16, 0xF0FF#16⟩,
  ⟨"FONT", 0xF029#16, 0xF0FF#16⟩,
  ⟨"BCD", 0xF033#16, 0xF0FF#16⟩,
  ⟨"STM", 0xF055#16, 0xF0FF#16⟩,
  ⟨"LDM", 0xF065#16, 0xF0FF#16⟩]

/-- The whole opcode map: 34 rows (R74). -/
def opcodeRows : List OpcodeRow := opcodeRowsLow ++ opcodeRowsMid ++ opcodeRowsHigh

/-- The word is an instruction word: some row fits it. The other words are the unknown opcodes (R76). -/
def wellFormedWord (w : Word) : Bool := opcodeRows.any (·.fits w)

end Sys2Proof
end

