-- ==== Sys2Proof/Decode.lean ====
section
/-! DEFINITION. Decoding (30_encoding.md, 40_cycle.md R93, R94): a total function of the bytes, by the two-level
dispatch of R73, which names what it rejects; and after it the encoder, written from the formats of R71. -/

namespace Sys2Proof

/-- Why the decoder gives no instruction. Neither is a fault of the machine: a word that is no instruction runs as a
no-op (R76, R95), and the fetch never hands over fewer than two bytes (R91). -/
inductive DecodeError where
  /-- The word fits no row of the opcode map (R76); it carries the word, as the `unknown_opcode` output does. -/
  | unknownOpcode (w : Word)
  /-- Fewer than the two bytes of an instruction word (R70). -/
  | truncated
  deriving DecidableEq, Repr

/-! The six fields of a word (R93): contiguous, unsigned bits (R72). -/

/-- `family = opcode[15:12]` -/
def fieldFamily (w : Word) : Nibble := w.extractLsb' 12 4
/-- `x = opcode[11:8]` -/
def fieldX (w : Word) : Reg := w.extractLsb' 8 4
/-- `y = opcode[7:4]` -/
def fieldY (w : Word) : Reg := w.extractLsb' 4 4
/-- `n = opcode[3:0]` -/
def fieldN (w : Word) : Nibble := w.extractLsb' 0 4
/-- `nn = opcode[7:0]` -/
def fieldNN (w : Word) : Byte := w.extractLsb' 0 8
/-- `nnn = opcode[11:0]` -/
def fieldNNN (w : Word) : Addr12 := w.extractLsb' 0 12

/-- Family 0x0: the single words 0x00E0 and 0x00EE (R75; 90_conflicts.md C2). -/
def decodeFamily0 (w : Word) : Option Instr :=
  if w = 0x00E0#16 then some .cls
  else if w = 0x00EE#16 then some .ret
  else none

/-- Family 0x8, dispatched on the low nibble (R73). -/
def decodeFamily8 (x y : Reg) (n : Nibble) : Option Instr :=
  if n = 0x0#4 then some (.ldReg x y)
  else if n = 0x1#4 then some (.orReg x y)
  else if n = 0x2#4 then some (.andReg x y)
  else if n = 0x3#4 then some (.xorReg x y)
  else if n = 0x4#4 then some (.addReg x y)
  else if n = 0x5#4 then some (.subReg x y)
  else if n = 0x6#4 then some (.shr x y)
  else if n = 0x7#4 then some (.subn x y)
  else if n = 0xE#4 then some (.shl x y)
  else none

/-- Family 0xE, dispatched on the low byte (R73). -/
def decodeFamilyE (x : Reg) (nn : Byte) : Option Instr :=
  if nn = 0x9E#8 then some (.skp x)
  else if nn = 0xA1#8 then some (.sknp x)
  else none

/-- Family 0xF, dispatched on the low byte (R73). -/
def decodeFamilyF (x : Reg) (nn : Byte) : Option Instr :=
  if nn = 0x07#8 then some (.ldDelay x)
  else if nn = 0x0A#8 then some (.waitKey x)
  else if nn = 0x15#8 then some (.setDelay x)
  else if nn = 0x18#8 then some (.setSound x)
  else if nn = 0x1E#8 then some (.addIndex x)
  else if nn = 0x29#8 then some (.font x)
  else if nn = 0x33#8 then some (.bcd x)
  else if nn = 0x55#8 then some (.stm x)
  else if nn = 0x65#8 then some (.ldm x)
  else none

/-- Dispatch on the high nibble (R73, R94). `none`: an unknown opcode (R76). Families 0x5 and 0x9 fix the low nibble
at 0 (R75). It reads the word alone (R78). -/
def decodeWord (w : Word) : Option Instr :=
  if fieldFamily w = 0x0#4 then decodeFamily0 w
  else if fieldFamily w = 0x1#4 then some (.jp (fieldNNN w))
  else if fieldFamily w = 0x2#4 then some (.call (fieldNNN w))
  else if fieldFamily w = 0x3#4 then some (.seImm (fieldX w) (fieldNN w))
  else if fieldFamily w = 0x4#4 then some (.sneImm (fieldX w) (fieldNN w))
  else if fieldFamily w = 0x5#4 then (if fieldN w = 0x0#4 then some (.seReg (fieldX w) (fieldY w)) else none)
  else if fieldFamily w = 0x6#4 then some (.ldImm (fieldX w) (fieldNN w))
  else if fieldFamily w = 0x7#4 then some (.addImm (fieldX w) (fieldNN w))
  else if fieldFamily w = 0x8#4 then decodeFamily8 (fieldX w) (fieldY w) (fieldN w)
  else if fieldFamily w = 0x9#4 then (if fieldN w = 0x0#4 then some (.sneReg (fieldX w) (fieldY w)) else none)
  else if fieldFamily w = 0xA#4 then some (.ldIndex (fieldNNN w))
  else if fieldFamily w = 0xB#4 then some (.jpV0 (fieldNNN w))
  else if fieldFamily w = 0xC#4 then some (.rnd (fieldX w) (fieldNN w))
  else if fieldFamily w = 0xD#4 then some (.drw (fieldX w) (fieldY w) (fieldN w))
  else if fieldFamily w = 0xE#4 then decodeFamilyE (fieldX w) (fieldNN w)
  else decodeFamilyF (fieldX w) (fieldNN w)

/-- The word of two bytes, the one at the lower address in bits 15:8 (R70, 20_memory.md R54). -/
def wordOfBytes (hi lo : Byte) : Word := hi ++ lo

/-- The high byte of a word, stored at the lower address (R70). -/
def highByte (w : Word) : Byte := w.extractLsb' 8 8

/-- The low byte of a word, stored at the higher address (R70). -/
def lowByte (w : Word) : Byte := w.extractLsb' 0 8

/-- Decoding the bytes at an instruction's address: the instruction and the bytes after it, or the reason there is
none. Total on any list of bytes. -/
def decode : List Byte → Except DecodeError (Instr × List Byte)
  | hi :: lo :: rest =>
    match decodeWord (wordOfBytes hi lo) with
    | some i => .ok (i, rest)
    | none => .error (.unknownOpcode (wordOfBytes hi lo))
  | _ => .error .truncated

/-! The encoder, format by format (R71). -/

/-- Format `A`: family, nnn. -/
def encodeA (family : Nibble) (nnn : Addr12) : Word := family ++ nnn
/-- Format `XI`: family, x, nn. -/
def encodeXI (family : Nibble) (x : Reg) (nn : Byte) : Word := family ++ x ++ nn
/-- Format `XY`: family, x, y, function. Format `XYN` has the same shape, with the count in bits 3:0. -/
def encodeXY (family : Nibble) (x y : Reg) (function : Nibble) : Word := family ++ x ++ y ++ function
/-- Format `X`: family, x, function in the low byte. -/
def encodeX (family : Nibble) (x : Reg) (function : Byte) : Word := family ++ x ++ function

/-- The word of an instruction (R71, R74). -/
def encode : Instr → Word
  | .cls => 0x00E0#16
  | .ret => 0x00EE#16
  | .jp nnn => encodeA 0x1#4 nnn
  | .call nnn => encodeA 0x2#4 nnn
  | .seImm x nn => encodeXI 0x3#4 x nn
  | .sneImm x nn => encodeXI 0x4#4 x nn
  | .seReg x y => encodeXY 0x5#4 x y 0x0#4
  | .ldImm x nn => encodeXI 0x6#4 x nn
  | .addImm x nn => encodeXI 0x7#4 x nn
  | .ldReg x y => encodeXY 0x8#4 x y 0x0#4
  | .orReg x y => encodeXY 0x8#4 x y 0x1#4
  | .andReg x y => encodeXY 0x8#4 x y 0x2#4
  | .xorReg x y => encodeXY 0x8#4 x y 0x3#4
  | .addReg x y => encodeXY 0x8#4 x y 0x4#4
  | .subReg x y => encodeXY 0x8#4 x y 0x5#4
  | .shr x y => encodeXY 0x8#4 x y 0x6#4
  | .subn x y => encodeXY 0x8#4 x y 0x7#4
  | .shl x y => encodeXY 0x8#4 x y 0xE#4
  | .sneReg x y => encodeXY 0x9#4 x y 0x0#4
  | .ldIndex nnn => encodeA 0xA#4 nnn
  | .jpV0 nnn => encodeA 0xB#4 nnn
  | .rnd x nn => encodeXI 0xC#4 x nn
  | .drw x y n => encodeXY 0xD#4 x y n
  | .skp x => encodeX 0xE#4 x 0x9E#8
  | .sknp x => encodeX 0xE#4 x 0xA1#8
  | .ldDelay x => encodeX 0xF#4 x 0x07#8
  | .waitKey x => encodeX 0xF#4 x 0x0A#8
  | .setDelay x => encodeX 0xF#4 x 0x15#8
  | .setSound x => encodeX 0xF#4 x 0x18#8
  | .addIndex x => encodeX 0xF#4 x 0x1E#8
  | .font x => encodeX 0xF#4 x 0x29#8
  | .bcd x => encodeX 0xF#4 x 0x33#8
  | .stm x => encodeX 0xF#4 x 0x55#8
  | .ldm x => encodeX 0xF#4 x 0x65#8

/-- The two bytes of an instruction in memory order, the high byte first (R70). -/
def encodeBytes (i : Instr) : List Byte := [highByte (encode i), lowByte (encode i)]

/-- The instruction the decoder reads from an instruction whose first `nbits` bits are `w`, numbered as
spec/opcode_table.json numbers them, every further bit 0 (here every row has 16 bits). The bytes are laid out as the
hardware stores them and given to `decode`. -/
def decodeTableWord (nbits w : Nat) : Option Instr :=
  let word := BitVec.ofNat 16 (w % 2 ^ nbits)
  match decode [highByte word, lowByte word] with
  | .ok (i, _) => some i
  | .error _ => none

end Sys2Proof
end

