-- ==== Sys2Proof/Config.lean ====
section
/-! DEFINITION. The fixed parameters of the hardware (spec 00_scope.md R6) and the one free value, the byte of
the random source (42_alu.md R141). The open parameters FONTSET, PROGRAM and INIT_MEM_REST (R7) are arguments of
`resetLoad` (Machine/Boundary.lean). -/

namespace Sys2Proof.Config

/-- `MEM_SIZE`: addresses 0x000 to 0xFFF (R6). -/
abbrev memSize : Nat := 4096

/-- `FONT_SIZE`: 16 glyphs of 5 bytes at `FONT_BASE` = 0x000 (R6). -/
abbrev fontSize : Nat := 80

/-- `GLYPH_BYTES` (R6). -/
abbrev glyphBytes : Nat := 5

/-- `PROG_BASE`: load address of the program and reset value of PC (R6). -/
abbrev progBase : Nat := 0x200

/-- `PROG_MAX` = 4096 - 512 (R6). -/
abbrev progMax : Nat := 3584

/-- `STACK_DEPTH` (R6). -/
abbrev stackDepth : Nat := 16

/-- `DISP_W` (R6). -/
abbrev dispW : Nat := 64

/-- `DISP_H` (R6). -/
abbrev dispH : Nat := 32

/-- `SPRITE_COLS` (R6). -/
abbrev spriteCols : Nat := 8

/-- What a byte of memory that is not listed reads as. The spec leaves INIT_MEM_REST and FONTSET open
(R7, 92_eei_decisions.md D9, D10). DESIGN CHOICE, unsafe, log entries 1 and 2. -/
abbrev unlistedByte : Byte := 0x00#8

/-- `rand_in` (R7, R141, D12): the byte the environment supplies to the `k`-th execution of Cxnn. A free value:
no body, so no proof can see which byte it is. Log entry 4. -/
opaque randIn : Nat → Byte

end Sys2Proof.Config
end

