-- ==== Sys2Proof/Machine/State.lean ====
section
/-! DEFINITION. The state of the chip8-rs CORE (spec 10_state.md): the tuple
`(V, I, PC, SP, Stack, DT, ST, Disp, K, Mem, HALT, CAUSE, INFO)`, and two fields of the model's own (`out`, `draws`).
Plain data. With it the two ways the model can stop, and the state after reset. -/

namespace Sys2Proof.Machine

/-- The listed bytes of memory, in one canonical form (`Memory.wf`, Machine/Memory.lean): addresses strictly rising, all
below 4096, no entry equal to what an unlisted address reads as. -/
abbrev Memory := List Host.Cell

/-- The three per-tick outputs of R8. They are no state of the machine (R34): the model keeps those of the LAST tick
beside the state, for the host to read, and every tick clears them first (R90). Log entry 5. -/
structure TickOut where
  /-- `display_changed`: this tick executed Dxyn (R171) -/
  displayChanged : Bool
  /-- `beep`: the sound timer went from 1 to 0 in this tick (R187) -/
  beep : Bool
  /-- `unknown_opcode`: this tick decoded a word that is no instruction, and which (R95) -/
  unknownOpcode : Option Word
  deriving DecidableEq, Repr

/-- No output asserted: `display_changed <- 0; beep <- 0; unknown_opcode <- (0, -)` (R90). -/
def TickOut.quiet : TickOut := ⟨false, false, none⟩

structure State where
  /-- V0 to VF (R20); VF = V15 is also the flag (R21) -/
  v : Vector Byte 16
  /-- I, the index register (R22) -/
  i : Word
  /-- PC: between ticks the address of the instruction the next tick fetches (R23) -/
  pc : Word
  /-- SP: how many return addresses are stacked, 0 to 16 (R25) -/
  sp : Fin 17
  /-- The call stack; entry `k` means something only while `k < SP` (R24) -/
  stack : Vector Word 16
  /-- DT, the delay timer (R26) -/
  dt : Byte
  /-- ST, the sound timer (R27) -/
  st : Byte
  /-- Disp, the display buffer: pixel (px, py) is bit px of row py (R28) -/
  disp : Display
  /-- K, the keypad: bit k is 1 while key k is pressed (R29); only the host writes it -/
  keys : BitVec 16
  /-- Mem, 4096 bytes (R30) -/
  mem : Memory
  /-- HALT: a fatal fault has stopped the core (R33) -/
  halt : Bool
  /-- CAUSE: the code of that fault, 0 for none (R31, R200) -/
  cause : BitVec 3
  /-- INFO: bits 31:16 the PC of the faulting instruction, bits 15:0 the detail (R31, R200) -/
  info : BitVec 32
  /-- The model's own: the outputs of the last tick (R34; log entry 5) -/
  out : TickOut
  /-- The model's own: how many bytes the random source has supplied (R141; log entry 4) -/
  draws : Nat
  deriving DecidableEq, Repr

/-- The model's `fault` outcome. The five fatal faults of a tick (R200) are NOT here: their entry is described by the
spec (R206), so they are next states with HALT set (log entry 8), and no step answers `fault`. -/
inductive Fault where
  /-- Raised by `resetLoad` alone: the program is longer than 3584 bytes or the font is not 80 bytes, "fatal load error,
  reported before any execution begins" (R207, R241). Safe: the spec defines no state then. -/
  | loadError
  deriving DecidableEq, Repr

/-- The model's `refused` outcome. -/
inductive Refusal where
  /-- Raised by no one: every instruction has its meaning. It would be `exec`'s answer for an instruction without one.
  Safe: nothing is claimed of such an instruction. -/
  | notModelled (mnemonic : String)
  deriving DecidableEq, Repr

/-- The machine right after reset (R35, R240): every register, both timers, SP and the display 0, PC at 0x200, no key
pressed, no fault. Memory lists nothing (log entries 1, 2), so this is the load of an all-zero font, an empty program and an
all-zero rest; the stack entries, which the spec leaves open, are 0 (log entry 3); `out` and `draws` are the model's own
(log entries 4, 5). -/
def State.reset : State where
  v := Vector.replicate 16 0x00#8
  i := 0x0000#16
  pc := 0x0200#16
  sp := 0
  stack := Vector.replicate 16 0x0000#16
  dt := 0x00#8
  st := 0x00#8
  disp := Vector.replicate 32 0#64
  keys := 0x0000#16
  mem := []
  halt := false
  cause := 0#3
  info := 0#32
  out := TickOut.quiet
  draws := 0

end Sys2Proof.Machine
end

