-- ==== Sys2Proof/Machine/Memory.lean ====
section
/-! DEFINITION. The memory (spec 20_memory.md): 4096 bytes, held as the list of the bytes that differ from what an
unlisted address reads as. Reading, writing, the canonical form, and a memory made from all its bytes at once. -/

namespace Sys2Proof.Machine

/-- The canonical form: strictly rising addresses, all of them addresses (below 4096, R50), no entry equal to what an
unlisted address reads as. -/
abbrev Memory.wf (m : Memory) : Prop :=
  m.Pairwise (fun c d => c.1 < d.1) ∧ ∀ c ∈ m, c.1 < Config.memSize ∧ c.2 ≠ Config.unlistedByte

/-- `Mem[a]` (R30, R52). -/
def Memory.read : Memory → Nat → Byte
  | [], _ => Config.unlistedByte
  | c :: m, a => if c.1 = a then c.2 else Memory.read m a

/-- A cell put in front of the cells above it, unless it holds what an unlisted address reads as. -/
def Memory.cons (a : Nat) (b : Byte) (m : Memory) : Memory :=
  if b = Config.unlistedByte then m else (a, b) :: m

/-- The list with the byte at `a` set to `b`, in canonical form if it was. -/
def Memory.put : Memory → Nat → Byte → Memory
  | [], a, b => Memory.cons a b []
  | c :: m, a, b =>
    if a < c.1 then Memory.cons a b (c :: m)
    else if a = c.1 then Memory.cons a b m
    else c :: Memory.put m a b

/-- `MemWrite(a, 1, b)` (R53): `Mem[a] <- b` and nothing else; where `a > 4095` it does not write. -/
def Memory.write (m : Memory) (a : Nat) (b : Byte) : Memory :=
  if a < Config.memSize then Memory.put m a b else m

/-- The memory whose byte at each address of `addrs` is given by `image`. -/
def Memory.ofImage (image : Nat → Byte) (addrs : List Nat) : Memory :=
  addrs.foldr (fun a m => Memory.cons a (image a) m) []

end Sys2Proof.Machine
end

