-- ==== Sys2Proof/Machine/Ops.lean ====
section
/-! DEFINITION. The named operations every meaning and the step are written over: registers, PC, the call stack, memory
access and fetch, the fatal fault (`raise`), the timer phase, and what an unknown opcode does.

A meaning is given the state BEFORE its tick: PC still holds `pc_inst`, the address of the instruction (log entry 9). -/

namespace Sys2Proof.Machine

/-- What a meaning answers. -/
abbrev Result := Host.Outcome State Fault Refusal

/-! ### General registers (R20) -/

/-- The register number of VF (R21). -/
abbrev vf : Reg := 0xF#4

/-- `V[r]` (R10). -/
def State.getV (s : State) (r : Reg) : Byte := s.v[r.toNat]'r.isLt

/-- `V[r] <- b` (R10). -/
def State.setV (s : State) (r : Reg) (b : Byte) : State := { s with v := s.v.set r.toNat b r.isLt }

/-- `I <- w` (R10). -/
def State.setI (s : State) (w : Word) : State := { s with i := w }

/-! ### Program counter (R23, R92) -/

/-- `pc_next`: the address of the following instruction, PC + 2 (R92). -/
def State.pcNext (s : State) : Word := s.pc + 2#16

/-- `pc <- target`. -/
def State.setPc (s : State) (target : Word) : State := { s with pc := target }

/-- PC left at `pc_next`, as every instruction leaves it that does not mention PC (R92). -/
def State.advance (s : State) : State := s.setPc s.pcNext

/-- `if c: pc <- pc_next + 2`, otherwise PC stays `pc_next` (R113 to R116, R180, R181). -/
def State.skipIf (s : State) (c : Bool) : State := s.setPc (if c then s.pcNext + 2#16 else s.pcNext)

/-! ### Call stack (R24, R25) -/

/-- `Stack[SP] <- w; SP <- SP + 1` (R112), for SP below 16. -/
def State.push (s : State) (w : Word) (h : s.sp.val < 16) : State :=
  { s with stack := s.stack.set s.sp.val w h, sp := ⟨s.sp.val + 1, by omega⟩ }

/-- `Stack[k]` for an entry of the stack (R24). -/
def State.stackAt (s : State) (k : Fin 16) : Word := s.stack[k.val]

/-- `SP <- SP - 1` (R110), for SP above 0; the entry it uncovers is left in place. -/
def State.pop (s : State) (h : 0 < s.sp.val) : State := { s with sp := ⟨s.sp.val - 1, by omega⟩ }

/-- The number of the entry a return pops: SP - 1 (R110). -/
def State.topIndex (s : State) (h : 0 < s.sp.val) : Fin 16 := ⟨s.sp.val - 1, by omega⟩

/-! ### Memory (R52, R53) and fetch (R91) -/

/-- `MemRead(a, 1)` (R52). Every rule checks its range first, so `a` is an address where this is used. -/
def State.readByte (s : State) (a : Nat) : Byte := s.mem.read a

/-- `MemWrite(a, 1, b)` (R53). -/
def State.writeByte (s : State) (a : Nat) (b : Byte) : State := { s with mem := s.mem.write a b }

/-- Fetch (R91): the two bytes at PC and PC + 1, big-endian, for any PC even or odd; none where `PC + 1 > 4095`. -/
def State.fetchWord (s : State) : Option Word :=
  if s.pc.toNat + 1 ≤ 4095 then some (wordOfBytes (s.readByte s.pc.toNat) (s.readByte (s.pc.toNat + 1))) else none

/-- An instruction word stored at an address, high byte first (R54, R70). -/
def State.storeWord (s : State) (a : Nat) (w : Word) : State :=
  (s.writeByte a (highByte w)).writeByte (a + 1) (lowByte w)

/-! ### Fatal faults (60_exceptions.md): the one way a tick takes an error. There is no return from one (R210): only
`resetLoad` (Machine/Boundary.lean) leaves the halted state. -/

/-- The five faults of a tick, by name (R200). -/
inductive FaultCause where
  /-- CALL with SP = 16 (R201) -/
  | stackOverflow
  /-- RET with SP = 0 (R202) -/
  | stackUnderflow
  /-- fetch with PC > 0xFFE (R203) -/
  | fetchOutOfRange
  /-- DRW, BCD, STM, LDM reaching past 4095 (R204) -/
  | dataOutOfRange
  /-- SKP, SKNP with Vx > 15 (R205) -/
  | keyIndexOutOfRange
  deriving DecidableEq, Repr

/-- The code a fault leaves in CAUSE (R200). -/
def causeCode : FaultCause → BitVec 3
  | .stackOverflow => 1#3
  | .stackUnderflow => 2#3
  | .fetchOutOfRange => 3#3
  | .dataOutOfRange => 4#3
  | .keyIndexOutOfRange => 5#3

/-- The state a fault leaves, from the state before the tick: `HALT <- 1; CAUSE <- c; INFO <- pc_inst ++ detail[15:0]`,
and every other piece of state as it was (R98, R206). -/
def State.faulted (s : State) (c : FaultCause) (detail : Nat) : State :=
  { s with halt := true, cause := causeCode c, info := s.pc ++ BitVec.ofNat 16 detail }

/-- `raise c(detail)` (R206): a next state, the halted one. -/
def raise (c : FaultCause) (detail : Nat) (s : State) : Result := .next (s.faulted c detail)

/-! ### The tick around an instruction (40_cycle.md R90, 45_keypad_timers.md R187) -/

/-- The outputs are 0 at the start of every tick (R90). -/
def State.clearOut (s : State) : State := { s with out := TickOut.quiet }

/-- One count down, stopping at 0 (R26, R27, R187). -/
def countDown (t : Byte) : Byte := if t = 0x00#8 then 0x00#8 else t - 0x01#8

/-- The timer phase (R187): `beep` when ST is 1, then both timers count down. -/
def timerPhase (s : State) : State :=
  { s with dt := countDown s.dt, st := countDown s.st, out := { s.out with beep := s.st == 0x01#8 } }

/-- The end of a tick: the timer phase, unless the tick raised a fault (R98). -/
def endTick : Result → Result
  | .next s => .next (if s.halt then s else timerPhase s)
  | .fault r => .fault r
  | .refused r => .refused r

/-- An unknown opcode (R95): a no-op, PC left at `pc_next`, reported on the `unknown_opcode` output. -/
def execUnknown (w : Word) (s : State) : Result :=
  .next { s.advance with out := { s.out with unknownOpcode := some w } }

end Sys2Proof.Machine
end

