-- ==== Sys2Proof/Machine/Operands.lean ====
section
/-! DEFINITION. Operands. The machine has three operand forms: a register, whose value is latched before anything is
written (40_cycle.md R96: a meaning reads `V[x]`, `V[y]`, `V[0]` and `I` in the state it is given, before its first
write); an immediate field of the word (30_encoding.md R72); and a run of bytes based at I (43_index_memory.md, its one
addressing mode; 20_memory.md R55). -/

namespace Sys2Proof.Machine

/-- The effective address `i0 + r`: an unbounded sum, never wrapped (R55). -/
def effAddr (i0 : Word) (r : Nat) : Nat := i0.toNat + r

/-- The check every access of `count` bytes based at I makes before any effect: its last address is at most 4095, and an
access of no bytes is always in range (R55, R171). -/
def accessInRange (i0 : Word) (count : Nat) : Bool := count == 0 || effAddr i0 (count - 1) ≤ 4095

/-- How many registers STM and LDM move: `x + 1` (R154, R155). -/
def regCount (x : Reg) : Nat := x.toNat + 1

/-- The hundreds, tens and ones of a byte, each a byte 0 to 9 (R153). -/
def bcdHundreds (b : Byte) : Byte := BitVec.ofNat 8 (b.toNat / 100)
def bcdTens (b : Byte) : Byte := BitVec.ofNat 8 (b.toNat / 10 % 10)
def bcdOnes (b : Byte) : Byte := BitVec.ofNat 8 (b.toNat % 10)

/-- The address of the glyph of a digit: `zext_16(vx) * 5`, the whole byte, unmasked (R152). -/
def glyphAddr (b : Byte) : Word := zextByte b * 5#16

/-- Store the bytes `bytes` at ascending addresses from `a` (R54, R153, R154). -/
def State.writeBytes (s : State) (a : Nat) : List Byte → State
  | [] => s
  | b :: bs => (s.writeByte a b).writeBytes (a + 1) bs

/-- `V[0], …, V[count - 1]`, as STM stores them (R154). -/
def State.firstRegs (s : State) (count : Nat) : List Byte :=
  (List.range count).map (fun r => s.getV (BitVec.ofNat 4 r))

/-- `V[r] <- MemRead(a + r, 1)` for `r` below `count`, ascending (R155). -/
def State.loadRegs (s : State) (a : Nat) : Nat → State
  | 0 => s
  | r + 1 => (s.loadRegs a r).setV (BitVec.ofNat 4 r) (s.readByte (a + r))

/-- `K[k]` for a key index (R29). -/
def State.keyPressed (s : State) (k : Nat) : Bool := s.keys.getLsbD k

/-- `min { k : K[k] == 1 }` among the key indices from `k` on, of which there are `fuel`; none if no key is pressed
(R183). -/
def lowestKeyFrom (keys : BitVec 16) : Nat → Nat → Option Nat
  | 0, _ => none
  | fuel + 1, k => if keys.getLsbD k then some k else lowestKeyFrom keys fuel (k + 1)

/-- The lowest-indexed pressed key (R183). -/
def lowestKey (keys : BitVec 16) : Option Nat := lowestKeyFrom keys 16 0

end Sys2Proof.Machine
end

