-- ==== Sys2Proof/Machine/Flags.lean ====
section
/-! DEFINITION. The one flag, VF (10_state.md R21), and the arithmetic that sets it (42_alu.md R129). -/

namespace Sys2Proof.Machine

/-- A flag value zero-extended to a byte: 0x00 or 0x01 (R21). -/
def flagByte (b : Bool) : Byte := if b then 0x01#8 else 0x00#8

/-- Carry of `a + b`: 1 exactly when `a + b > 255` (R129, R136). -/
def carryOf (a b : Byte) : Bool := 255 < a.toNat + b.toNat

/-- Borrow of `a - b`: 1 exactly when `a < b`, equality excluded (R129, R137, R139). -/
def borrowOf (a b : Byte) : Bool := a.toNat < b.toNat

/-- The bit a right shift loses: `vx[0]` (R138). -/
def shiftedOutLow (a : Byte) : Bool := a.getLsbD 0

/-- The bit a left shift loses: `vx[7]` (R140). -/
def shiftedOutHigh (a : Byte) : Bool := a.getLsbD 7

/-- Add, subtract: `V[x] <- result`, then `V[15] <- flag`; the flag stays where x = 15 (R96, R136, R137, R139). -/
def State.resultThenFlag (s : State) (x : Reg) (result : Byte) (flag : Bool) : State :=
  (s.setV x result).setV vf (flagByte flag)

/-- Shifts: `V[15] <- flag`, then `V[x] <- result`; the result stays where x = 15 (R96, R138, R140). -/
def State.flagThenResult (s : State) (x : Reg) (flag : Bool) (result : Byte) : State :=
  (s.setV vf (flagByte flag)).setV x result

end Sys2Proof.Machine
end

