-- ==== Sys2Proof/Machine/Alu.lean ====
section
/-! DEFINITION. Register load, arithmetic, logic, shift and random (spec 42_alu.md R129 to R141). PC is left at `pc_next`
by all twelve and none can fault. -/

namespace Sys2Proof.Machine

/-- 6xnn `LD.I Vx, nn` (R130). -/
def execLdImm (x : Reg) (nn : Byte) (s : State) : Result := .next (s.advance.setV x nn)

/-- 7xnn `ADD.I Vx, nn` (R131): modulo 256, no flag. -/
def execAddImm (x : Reg) (nn : Byte) (s : State) : Result := .next (s.advance.setV x (s.getV x + nn))

/-- 8xy0 `LD.R Vx, Vy` (R132). -/
def execLdReg (x y : Reg) (s : State) : Result := .next (s.advance.setV x (s.getV y))

/-- 8xy1 `OR Vx, Vy` (R133). -/
def execOrReg (x y : Reg) (s : State) : Result := .next (s.advance.setV x (s.getV x ||| s.getV y))

/-- 8xy2 `AND Vx, Vy` (R134). -/
def execAndReg (x y : Reg) (s : State) : Result := .next (s.advance.setV x (s.getV x &&& s.getV y))

/-- 8xy3 `XOR Vx, Vy` (R135). -/
def execXorReg (x y : Reg) (s : State) : Result := .next (s.advance.setV x (s.getV x ^^^ s.getV y))

/-- 8xy4 `ADD.R Vx, Vy` (R136): VF = carry. -/
def execAddReg (x y : Reg) (s : State) : Result :=
  .next (s.advance.resultThenFlag x (s.getV x + s.getV y) (carryOf (s.getV x) (s.getV y)))

/-- 8xy5 `SUB Vx, Vy` (R137): VF = borrow. -/
def execSubReg (x y : Reg) (s : State) : Result :=
  .next (s.advance.resultThenFlag x (s.getV x - s.getV y) (borrowOf (s.getV x) (s.getV y)))

/-- 8xy6 `SHR Vx, Vy` (R138): VF = the bit shifted out; `y` is ignored. -/
def execShr (x _y : Reg) (s : State) : Result :=
  .next (s.advance.flagThenResult x (shiftedOutLow (s.getV x)) (s.getV x >>> 1))

/-- 8xy7 `SUBN Vx, Vy` (R139): VF = borrow of `vy - vx`. -/
def execSubn (x y : Reg) (s : State) : Result :=
  .next (s.advance.resultThenFlag x (s.getV y - s.getV x) (borrowOf (s.getV y) (s.getV x)))

/-- 8xyE `SHL Vx, Vy` (R140): VF = the bit shifted out; `y` is ignored. -/
def execShl (x _y : Reg) (s : State) : Result :=
  .next (s.advance.flagThenResult x (shiftedOutHigh (s.getV x)) (s.getV x <<< 1))

/-- Cxnn for a given byte of the random source (R141): `V[x] <- rand_in & nn`. -/
def rndWith (rand : Byte) (x : Reg) (nn : Byte) (s : State) : State := s.advance.setV x (rand &&& nn)

/-- Cxnn `RND Vx, nn` (R141): the byte is the free value Config.randIn at the count of bytes drawn so far, and the count
steps on, so that each execution has a byte of its own (log entry 4). -/
def execRnd (x : Reg) (nn : Byte) (s : State) : Result :=
  .next { rndWith (Config.randIn s.draws) x nn s with draws := s.draws + 1 }

end Sys2Proof.Machine
end

