-- ==== Sys2Proof/Machine/Control.lean ====
section
/-! DEFINITION. Control transfer (spec 41_control_flow.md R110 to R117): RET, JP, CALL, the four register skips, JP.V0. -/

namespace Sys2Proof.Machine

/-- 00EE `RET` (R110): `StackUnderflow(0)` with SP = 0; else SP steps down and PC takes the entry it then names. -/
def execRet (s : State) : Result :=
  if h : 0 < s.sp.val then .next ((s.pop h).setPc (s.stackAt (s.topIndex h)))
  else raise .stackUnderflow 0 s

/-- 1nnn `JP nnn` (R111). -/
def execJp (nnn : Addr12) (s : State) : Result := .next (s.setPc (zextAddr nnn))

/-- 2nnn `CALL nnn` (R112): `StackOverflow(16)` with SP = 16; else `pc_next` is pushed. -/
def execCall (nnn : Addr12) (s : State) : Result :=
  if h : s.sp.val < 16 then .next ((s.push s.pcNext h).setPc (zextAddr nnn))
  else raise .stackOverflow 16 s

/-- 3xnn `SE.I Vx, nn` (R113). -/
def execSeImm (x : Reg) (nn : Byte) (s : State) : Result := .next (s.skipIf (s.getV x == nn))

/-- 4xnn `SNE.I Vx, nn` (R114). -/
def execSneImm (x : Reg) (nn : Byte) (s : State) : Result := .next (s.skipIf (s.getV x != nn))

/-- 5xy0 `SE.R Vx, Vy` (R115). -/
def execSeReg (x y : Reg) (s : State) : Result := .next (s.skipIf (s.getV x == s.getV y))

/-- 9xy0 `SNE.R Vx, Vy` (R116). -/
def execSneReg (x y : Reg) (s : State) : Result := .next (s.skipIf (s.getV x != s.getV y))

/-- Bnnn `JP.V0 nnn` (R117): `zext_16(nnn) + zext_16(v0)`, not reduced to 12 bits. -/
def execJpV0 (nnn : Addr12) (s : State) : Result := .next (s.setPc (zextAddr nnn + zextByte (s.getV 0x0#4)))

end Sys2Proof.Machine
end

