-- ==== Sys2Proof/Machine/Graphics.lean ====
section
/-! DEFINITION. The display and the collision detector (spec 44_display.md R170, R171). -/

namespace Sys2Proof.Machine

/-- The cell of a pixel: `p = px + py * 64` (10_state.md R28). -/
def cellIndex (px py : Nat) : Nat := px + py * Config.dispW

/-- `Disp[p]` for a cell `p` below 2048 (R10): column `p mod 64` of row `p div 64` (R28). -/
def pixelAt (d : Display) (p : Nat) : Bool :=
  if h : p / Config.dispW < Config.dispH then (d[p / Config.dispW]'h).getLsbD (p % Config.dispW) else false

/-- `Disp[p] <- Disp[p] ^ 1` for a cell `p` below 2048 (R171). -/
def flipPixel (d : Display) (p : Nat) : Display :=
  if h : p / Config.dispW < Config.dispH then
    d.set (p / Config.dispW) (d[p / Config.dispW]'h ^^^ (1#64 <<< (p % Config.dispW))) h
  else d

/-- The display being drawn on and the collision seen so far. -/
abbrev Drawing := Display × Bool

/-- One sprite bit at column `col` of row `row` of a sprite whose corner is at (vx, vy): if it is 1, the pixel, wrapped at
each edge, is flipped, and a lit pixel turned off is a collision (R171). Column 0 is the most significant bit. -/
def drawBit (vx vy : Byte) (row : Nat) (b : Byte) (g : Drawing) (col : Nat) : Drawing :=
  let p := cellIndex ((vx.toNat + col) % Config.dispW) ((vy.toNat + row) % Config.dispH)
  if b.getLsbD (7 - col) then (flipPixel g.1 p, g.2 || pixelAt g.1 p) else g

/-- The 8 columns of one sprite row (R171). -/
def drawRow (vx vy : Byte) (row : Nat) (b : Byte) (g : Drawing) : Drawing :=
  (List.range Config.spriteCols).foldl (drawBit vx vy row b) g

/-- The first `n` rows of a sprite, row `r` being the byte `rows r` (R171). -/
def drawRows (vx vy : Byte) (rows : Nat → Byte) (g : Drawing) : Nat → Drawing
  | 0 => g
  | r + 1 => drawRow vx vy r (rows r) (drawRows vx vy rows g r)

/-- The sprite drawn on the display with no collision seen yet: VF is 0 at the start of the instruction (R171). -/
def State.drawSprite (s : State) (vx vy : Byte) (n : Nat) : Drawing :=
  drawRows vx vy (fun r => s.readByte (effAddr s.i r)) (s.disp, false) n

/-- 00E0 `CLS` (R170): every cell 0; the display-changed output is not asserted. -/
def execCls (s : State) : Result := .next { s.advance with disp := Vector.replicate 32 0#64 }

/-- Dxyn `DRW Vx, Vy, n` (R171): the sprite bytes are in range (none is read with n = 0), the coordinates are the old
Vx and Vy, VF = collision, the display-changed output is asserted. -/
def execDrw (x y : Reg) (n : Nibble) (s : State) : Result :=
  if accessInRange s.i n.toNat then
    let g := s.drawSprite (s.getV x) (s.getV y) n.toNat
    .next { s.advance.setV vf (flagByte g.2) with disp := g.1, out := { s.out with displayChanged := true } }
  else raise .dataOutOfRange (effAddr s.i (n.toNat - 1)) s

end Sys2Proof.Machine
end

