-- ==== Sys2Proof/Machine/IndexMemory.lean ====
section
/-! DEFINITION. Index register and memory (spec 43_index_memory.md R150 to R155). PC is left at `pc_next` by all six; BCD,
STM and LDM check the whole range they touch before they change anything and leave I as it was. -/

namespace Sys2Proof.Machine

/-- Annn `LDI nnn` (R150). -/
def execLdIndex (nnn : Addr12) (s : State) : Result := .next (s.advance.setI (zextAddr nnn))

/-- Fx1E `ADDI Vx` (R151): modulo 65536, VF untouched. -/
def execAddIndex (x : Reg) (s : State) : Result := .next (s.advance.setI (s.i + zextByte (s.getV x)))

/-- Fx29 `FONT Vx` (R152). -/
def execFont (x : Reg) (s : State) : Result := .next (s.advance.setI (glyphAddr (s.getV x)))

/-- Fx33 `BCD Vx` (R153): hundreds, tens, ones at I, I + 1, I + 2. -/
def execBcd (x : Reg) (s : State) : Result :=
  if accessInRange s.i 3 then
    .next (s.advance.writeBytes (effAddr s.i 0) [bcdHundreds (s.getV x), bcdTens (s.getV x), bcdOnes (s.getV x)])
  else raise .dataOutOfRange (effAddr s.i 2) s

/-- Fx55 `STM Vx` (R154): V0 to Vx at I and up. -/
def execStm (x : Reg) (s : State) : Result :=
  if accessInRange s.i (regCount x) then .next (s.advance.writeBytes (effAddr s.i 0) (s.firstRegs (regCount x)))
  else raise .dataOutOfRange (effAddr s.i x.toNat) s

/-- Fx65 `LDM Vx` (R155): V0 to Vx from I and up. -/
def execLdm (x : Reg) (s : State) : Result :=
  if accessInRange s.i (regCount x) then .next (s.advance.loadRegs (effAddr s.i 0) (regCount x))
  else raise .dataOutOfRange (effAddr s.i x.toNat) s

end Sys2Proof.Machine
end

