-- ==== Sys2Proof/Machine/KeypadTimers.lean ====
section
/-! DEFINITION. Keypad and timer instructions (spec 45_keypad_timers.md R180 to R185). -/

namespace Sys2Proof.Machine

/-- Ex9E `SKP Vx` (R180): the key is the one whose index is the VALUE of Vx; above 15, `KeyIndexOutOfRange`. -/
def execSkp (x : Reg) (s : State) : Result :=
  if (s.getV x).toNat ≤ 15 then .next (s.skipIf (s.keyPressed (s.getV x).toNat))
  else raise .keyIndexOutOfRange (s.getV x).toNat s

/-- ExA1 `SKNP Vx` (R181). -/
def execSknp (x : Reg) (s : State) : Result :=
  if (s.getV x).toNat ≤ 15 then .next (s.skipIf (!s.keyPressed (s.getV x).toNat))
  else raise .keyIndexOutOfRange (s.getV x).toNat s

/-- Fx07 `LD.DT Vx` (R182): the value the last tick's timer phase left. -/
def execLdDelay (x : Reg) (s : State) : Result := .next (s.advance.setV x s.dt)

/-- Fx0A `WKEY Vx` (R183): with no key pressed PC goes back to this instruction (`pc_next - 2`); else Vx takes the
lowest-indexed pressed key. -/
def execWaitKey (x : Reg) (s : State) : Result :=
  match lowestKey s.keys with
  | none => .next (s.setPc (s.pcNext - 2#16))
  | some k => .next (s.advance.setV x (BitVec.ofNat 8 k))

/-- Fx15 `ST.DT Vx` (R184). -/
def execSetDelay (x : Reg) (s : State) : Result := .next { s.advance with dt := s.getV x }

/-- Fx18 `ST.ST Vx` (R185). -/
def execSetSound (x : Reg) (s : State) : Result := .next { s.advance with st := s.getV x }

end Sys2Proof.Machine
end

