-- ==== Sys2Proof/Machine/Step.lean ====
section
/-! DEFINITION. The tick (spec 40_cycle.md R90): one instruction, then one timer step. -/

namespace Sys2Proof.Machine

/-- What a fetched word does (R94): the instruction's meaning, or the unknown-opcode arm (R95). -/
def execWord (w : Word) (s : State) : Result :=
  match decodeWord w with
  | some i => exec i s
  | none => execUnknown w s

/-- The instruction phase and the end of a tick, on a core that is not halted and whose outputs are cleared (R90, R91). -/
def tickRunning (s : State) : Result :=
  match s.fetchWord with
  | some w => endTick (execWord w s)
  | none => raise .fetchOutOfRange s.pc.toNat s

/-- `Tick` (R90). A halted core's tick changes nothing and asserts no output (R99). It always answers a next state: the
five fatal faults are states with HALT set (R206). -/
def step (s : State) : Host.Outcome State Fault Refusal :=
  if s.halt then .next s.clearOut else tickRunning s.clearOut

/-- A state from which a fetch succeeds: not halted, and PC at a word inside memory, else at PROG_BASE (log entry 15). -/
def State.readyToFetch (s : State) : State :=
  let t := if s.halt then { s with halt := false, cause := 0#3, info := 0#32 } else s
  if t.pc.toNat + 1 ≤ 4095 then t else t.setPc 0x0200#16

/-- The state with an instruction word stored where the next tick fetches, as a load of a program would have put it there
(log entry 7). Nothing else is changed, unless the core is halted or PC is outside memory, when no tick would fetch: then
the halt is lifted, or PC set to PROG_BASE (log entry 15). -/
def State.withFetchWord (s : State) (nbits w : Nat) : State :=
  s.readyToFetch.storeWord s.readyToFetch.pc.toNat (BitVec.ofNat 16 (w % 2 ^ nbits))

end Sys2Proof.Machine
end

