-- ==== Sys2Proof/Machine/Boundary.lean ====
section
/-! DEFINITION. What the host does at the core's boundary besides ticking (spec 00_scope.md R8, 70_reset_and_hazards.md
R240 to R243): reset-and-load, and key edges between ticks. -/

namespace Sys2Proof.Machine

/-- The byte each address holds after a load: the font at 0x000, the program at 0x200, and elsewhere INIT_MEM_REST, given
as a memory of its own (R240). -/
def loadImage (rest : Memory) (font program : List Byte) (a : Nat) : Byte :=
  if a < Config.fontSize then font.getD a 0x00#8
  else if Config.progBase ≤ a ∧ a < Config.progBase + program.length then program.getD (a - Config.progBase) 0x00#8
  else rest.read a

/-- The memory a load leaves: every byte of it given by the image (R240). -/
def loadMemory (rest : Memory) (font program : List Byte) : Memory :=
  Memory.ofImage (loadImage rest font program) (List.range Config.memSize)

/-- The state after a load: the reset state with the loaded memory (R35, R240). The whole old state is discarded; `draws`, the
model's own count of the bytes the environment has supplied, goes on (log entry 4). -/
def State.loaded (rest : Memory) (font program : List Byte) (draws : Nat) : State :=
  { State.reset with mem := loadMemory rest font program, draws := draws }

/-- `reset_load(FONTSET, PROGRAM)` (R240), with INIT_MEM_REST as an argument (R7); refused with LoadError unless the font is
80 bytes and the program at most 3584 (R241). -/
def resetLoad (rest : Memory) (font program : List Byte) (draws : Nat) : Result :=
  if font.length ≠ Config.fontSize ∨ Config.progMax < program.length then .fault .loadError
  else .next (State.loaded rest font program draws)

/-- `key_down(k)`: `K[k] <- 1` and nothing else (R186). -/
def keyDown (k : Fin 16) (s : State) : State := { s with keys := s.keys ||| (1#16 <<< k.val) }

/-- `key_up(k)`: `K[k] <- 0` and nothing else (R186). -/
def keyUp (k : Fin 16) (s : State) : State := { s with keys := s.keys &&& ~~~(1#16 <<< k.val) }

end Sys2Proof.Machine
end

