-- ==== Sys2Proof/Safety.lean ====
section
/-! DEFINITION. The terms claims use: the invariant of the state, how a run can stand (spec 70_reset_and_hazards.md R247),
runs in which the host acts between ticks (R243), and what an instruction leaves alone (40_cycle.md R97). -/

namespace Sys2Proof.Machine

/-! ### What stays true of the state -/

/-- The invariant: memory is in canonical form; PC is at most 0x10FE (10_state.md R23), and every return address on the stack
at most 0x1000 (41_control_flow.md R110); while HALT = 0, CAUSE and INFO hold 0 (10_state.md R33), and while HALT = 1, CAUSE is
a code 1 to 5 and INFO[31:16] is the address of the faulting instruction, at which PC still stands (60_exceptions.md R200,
R206). -/
structure State.Inv (s : State) : Prop where
  mem_wf : s.mem.wf
  pc_le : s.pc.toNat ≤ 0x10FE
  stack_le : ∀ k : Fin 16, k.val < s.sp.val → (s.stackAt k).toNat ≤ 0x1000
  running : s.halt = false → s.cause = 0#3 ∧ s.info = 0#32
  halted : s.halt = true → 1 ≤ s.cause.toNat ∧ s.cause.toNat ≤ 5 ∧ s.info.extractLsb' 16 16 = s.pc

/-! ### How a run can stand (R247) -/

/-- Halted by a fault: an error, never a successful end. -/
def State.Halted (s : State) : Prop := s.halt = true

/-- Parked: PC is at a 1nnn whose target is its own address, and both timers are 0. A convention of programs. -/
def State.Parked (s : State) : Prop :=
  s.halt = false ∧ s.dt = 0x00#8 ∧ s.st = 0x00#8 ∧
    ∃ nnn : Addr12, s.fetchWord = some (encode (.jp nnn)) ∧ s.pc = zextAddr nnn

/-! ### The host's part (R243) -/

/-- What the host does next: a tick, a key edge between ticks (R186), or a reset-and-load (R240). -/
inductive Event where
  | tick
  | keyDown (k : Fin 16)
  | keyUp (k : Fin 16)
  | load (rest : Memory) (font program : List Byte)
  deriving DecidableEq, Repr

/-- One act of the host. -/
def applyEvent (s : State) : Event → Result
  | .tick => step s
  | .keyDown k => .next (Sys2Proof.Machine.keyDown k s)
  | .keyUp k => .next (Sys2Proof.Machine.keyUp k s)
  | .load rest font program => resetLoad rest font program s.draws

/-- A run: the host's acts one after another, ended by a refused load, after which no tick may follow (R241). -/
def runEvents (s : State) : List Event → Result
  | [] => .next s
  | e :: es =>
    match applyEvent s e with
    | .next t => runEvents t es
    | .fault r => .fault r
    | .refused r => .refused r

/-! ### What an instruction leaves alone (R97) -/

/-- Every byte of memory reads as before, except those at addresses in `touched`. -/
def SameMemory (touched : Nat → Prop) (s t : State) : Prop := ∀ a, ¬ touched a → t.readByte a = s.readByte a

/-- Every general register is as before, except those in `written`. -/
def SameRegs (written : Reg → Prop) (s t : State) : Prop := ∀ r, ¬ written r → t.getV r = s.getV r

/-- Every entry of the call stack is as before, except that at `written`. -/
def SameStack (written : Fin 16 → Prop) (s t : State) : Prop := ∀ k, ¬ written k → t.stackAt k = s.stackAt k

/-- The registers that record a fault and the keypad, which no instruction that completes writes, are as before. -/
def SameFaultAndKeys (s t : State) : Prop :=
  t.halt = s.halt ∧ t.cause = s.cause ∧ t.info = s.info ∧ t.keys = s.keys

/-- SP and the call stack are as before. -/
def SameCallStack (s t : State) : Prop := t.sp = s.sp ∧ SameStack (fun _ => False) s t

/-- Both timers are as before. -/
def SameTimers (s t : State) : Prop := t.dt = s.dt ∧ t.st = s.st

/-- The display is as before. -/
def SameDisplay (s t : State) : Prop := t.disp = s.disp

/-- The outputs and the count of random bytes are as before. -/
def SameOutputs (s t : State) : Prop := t.out = s.out ∧ t.draws = s.draws

/-- All that an instruction leaves alone which writes only registers in `written` and PC. -/
def OnlyRegsAndPc (written : Reg → Prop) (s t : State) : Prop :=
  SameRegs written s t ∧ t.i = s.i ∧ SameCallStack s t ∧ SameTimers s t ∧ SameDisplay s t ∧
    SameMemory (fun _ => False) s t ∧ SameFaultAndKeys s t

/-- The instruction completes and puts `b` in `V[x]`: no other register changes, PC is left at the following instruction and
no fault is raised (R92, R97). -/
def WritesRegister (i : Instr) (s : State) (x : Reg) (b : Byte) : Prop :=
  ∃ t, exec i s = .next t ∧ t.getV x = b ∧ SameRegs (· = x) s t ∧ t.pc = s.pc + 2#16 ∧ t.halt = s.halt

/-- The instruction completes by setting PC to `target` and changing no register; no fault is raised. -/
def SetsPc (i : Instr) (s : State) (target : Word) : Prop :=
  ∃ t, exec i s = .next t ∧ t.pc = target ∧ SameRegs (fun _ => False) s t ∧ t.halt = s.halt

/-- The next tick executes the instruction `i`: the core is running and the word at PC is `i`'s. -/
def RunsAt (s : State) (i : Instr) : Prop := s.halt = false ∧ s.fetchWord = some (encode i)

/-! ### The tables of the spec that claims quantify over -/

/-- The registers an instruction may write (10_state.md R20 and R21, "Writers"). -/
def Instr.mayWrite (r : Reg) : Instr → Bool
  | .cls => false
  | .ret => false
  | .jp _ => false
  | .call _ => false
  | .seImm _ _ => false
  | .sneImm _ _ => false
  | .seReg _ _ => false
  | .ldImm x _ => r == x
  | .addImm x _ => r == x
  | .ldReg x _ => r == x
  | .orReg x _ => r == x
  | .andReg x _ => r == x
  | .xorReg x _ => r == x
  | .addReg x _ => r == x || r == vf
  | .subReg x _ => r == x || r == vf
  | .shr x _ => r == x || r == vf
  | .subn x _ => r == x || r == vf
  | .shl x _ => r == x || r == vf
  | .sneReg _ _ => false
  | .ldIndex _ => false
  | .jpV0 _ => false
  | .rnd x _ => r == x
  | .drw _ _ _ => r == vf
  | .skp _ => false
  | .sknp _ => false
  | .ldDelay x => r == x
  | .waitKey x => r == x
  | .setDelay _ => false
  | .setSound _ => false
  | .addIndex _ => false
  | .font _ => false
  | .bcd _ => false
  | .stm _ => false
  | .ldm x => r.toNat ≤ x.toNat

/-- The fault a running core's next tick raises and its detail, by the table of R200; none for a tick that raises none. -/
def State.tableFault (s : State) : Option (FaultCause × Nat) :=
  match s.fetchWord with
  | none => some (.fetchOutOfRange, s.pc.toNat)
  | some w =>
    match decodeWord w with
    | some (.call _) => if s.sp.val = 16 then some (.stackOverflow, 16) else none
    | some .ret => if s.sp.val = 0 then some (.stackUnderflow, 0) else none
    | some (.drw _ _ n) =>
      if 0 < n.toNat ∧ 4095 < s.i.toNat + n.toNat - 1 then some (.dataOutOfRange, s.i.toNat + n.toNat - 1) else none
    | some (.bcd _) => if 4095 < s.i.toNat + 2 then some (.dataOutOfRange, s.i.toNat + 2) else none
    | some (.stm x) => if 4095 < s.i.toNat + x.toNat then some (.dataOutOfRange, s.i.toNat + x.toNat) else none
    | some (.ldm x) => if 4095 < s.i.toNat + x.toNat then some (.dataOutOfRange, s.i.toNat + x.toNat) else none
    | some (.skp x) => if 15 < (s.getV x).toNat then some (.keyIndexOutOfRange, (s.getV x).toNat) else none
    | some (.sknp x) => if 15 < (s.getV x).toNat then some (.keyIndexOutOfRange, (s.getV x).toNat) else none
    | _ => none

/-- The sprite of `n` rows at I, drawn with its corner at (vx, vy), has a 1 bit that falls on the pixel (px, py) (R171). -/
def SpriteCovers (s : State) (vx vy : Byte) (n px py : Nat) : Prop :=
  ∃ row col, row < n ∧ col < 8 ∧ (s.readByte (s.i.toNat + row)).getLsbD (7 - col) = true ∧
    (vx.toNat + col) % 64 = px ∧ (vy.toNat + row) % 32 = py

/-- Two states that differ at most in call-stack entries at or above SP, which mean nothing (10_state.md R24). -/
def SameButDeadStack (s t : State) : Prop :=
  t = { s with stack := t.stack } ∧ ∀ k : Fin 16, k.val < s.sp.val → t.stackAt k = s.stackAt k

end Sys2Proof.Machine
end

