-- ==== Sys2Proof/Certificates/Slice0/Obligations.lean ====
section
/-! DEFINITION. The statements for the provers (OBLIGATIONS.json lists them). Each docstring names the rule of spec/ it
formalises. The meanings are given the state before the tick, so PC there is the instruction's own address and `pc_next`
is PC + 2 (log entry 9). A statement that rests on a decision the spec marks as its own (92_eei_decisions.md D<n>) names
that decision: its basis is 'derived'. -/

open Sys2Proof Sys2Proof.Machine

/-! ### Encoding (30_encoding.md) -/

/-- Decoding an encoded instruction gives it back, from the word and from its two bytes, whatever follows them. -/
def Obligations.DecodeOfEncodeIsTheInstruction : Prop :=
  ∀ (i : Instr) (rest : List Byte),
    decodeWord (encode i) = some i ∧ decode (encodeBytes i ++ rest) = .ok (i, rest)

/-- Where a word decodes, it is the word of the instruction it decodes to: each instruction has one word, and no bit of a
word is dropped, the ignored `y` of SHR and SHL included. -/
def Obligations.EncodeOfDecodeIsTheWord : Prop :=
  ∀ (w : Word) (i : Instr), decodeWord w = some i → encode i = w

/-- The two-level dispatch (R73) agrees with the opcode map (R74, R75 with decision D1): a word decodes exactly when some
row fits it, it then fits the row of the instruction it decodes to, and it fits no other row. -/
def Obligations.DispatchAgreesWithOpcodeMap : Prop :=
  ∀ w : Word, ((decodeWord w).isSome = wellFormedWord w) ∧
    (∀ i, decodeWord w = some i → ∀ r ∈ opcodeRows, r.fits w = true ↔ r = i.row)

/-- The unknown words are exactly those of R76's table (decision D1). -/
def Obligations.UnknownWordsAreThoseOfTheTable : Prop :=
  ∀ w : Word, decodeWord w = none ↔
    (w.toNat / 4096 = 0x0 ∧ w ≠ 0x00E0#16 ∧ w ≠ 0x00EE#16) ∨
    (w.toNat / 4096 = 0x5 ∧ w.toNat % 16 ≠ 0) ∨
    (w.toNat / 4096 = 0x8 ∧ w.toNat % 16 ∈ [0x8, 0x9, 0xA, 0xB, 0xC, 0xD, 0xF]) ∨
    (w.toNat / 4096 = 0x9 ∧ w.toNat % 16 ≠ 0) ∨
    (w.toNat / 4096 = 0xE ∧ w.toNat % 256 ∉ [0x9E, 0xA1]) ∨
    (w.toNat / 4096 = 0xF ∧ w.toNat % 256 ∉ [0x07, 0x0A, 0x15, 0x18, 0x1E, 0x29, 0x33, 0x55, 0x65])

/-- The word fetched from two bytes is big-endian, and its fields rebuild it bit for bit (R54, R78, R91). -/
def Obligations.FetchedWordIsRebuiltFromItsFields : Prop :=
  ∀ s : State, s.pc.toNat ≤ 0xFFE → ∃ w, s.fetchWord = some w ∧
    w.toNat = (s.readByte s.pc.toNat).toNat * 256 + (s.readByte (s.pc.toNat + 1)).toNat ∧
    w.toNat = (fieldFamily w).toNat * 4096 + (fieldX w).toNat * 256 + (fieldY w).toNat * 16 + (fieldN w).toNat ∧
    w.toNat = (fieldFamily w).toNat * 4096 + (fieldX w).toNat * 256 + (fieldNN w).toNat ∧
    w.toNat = (fieldFamily w).toNat * 4096 + (fieldNNN w).toNat

/-- Words written out from the patterns of R74, one a family, decode to the instructions they stand for; words the spec
names as unknown do not decode. -/
def Obligations.WrittenOutWordsDecode : Prop :=
  decodeTableWord 16 0x00E0 = some .cls ∧ decodeTableWord 16 0x1234 = some (.jp 0x234#12) ∧
  decodeTableWord 16 0x332A = some (.seImm 0x3#4 0x2A#8) ∧ decodeTableWord 16 0x5120 = some (.seReg 0x1#4 0x2#4) ∧
  decodeTableWord 16 0x812E = some (.shl 0x1#4 0x2#4) ∧ decodeTableWord 16 0xA2F0 = some (.ldIndex 0x2F0#12) ∧
  decodeTableWord 16 0xD343 = some (.drw 0x3#4 0x4#4 0x3#4) ∧ decodeTableWord 16 0xE29E = some (.skp 0x2#4) ∧
  decodeTableWord 16 0xF30A = some (.waitKey 0x3#4) ∧ decodeTableWord 16 0xF265 = some (.ldm 0x2#4) ∧
  decodeTableWord 16 0x01E0 = none ∧ decodeTableWord 16 0x9ABF = none ∧ decodeTableWord 16 0xF175 = none

/-! ### The tick (40_cycle.md) -/

/-- A running core whose bytes at PC decode to `i` runs exactly `i`, on the state with the outputs cleared, and then steps
the timers unless `i` raised a fault (R90, R94). -/
def Obligations.StepRunsDecodedInstruction : Prop :=
  ∀ (s : State) (i : Instr), s.halt = false → s.pc.toNat ≤ 0xFFE →
    decodeWord (wordOfBytes (s.readByte s.pc.toNat) (s.readByte (s.pc.toNat + 1))) = some i →
    step s = endTick (exec i s.clearOut) ∧
    ∀ t, exec i s.clearOut = .next t → step s = .next (if t.halt then t else timerPhase t)

/-- An unknown opcode is a no-op: PC moves past it, the timers step, the word is reported, nothing else changes (R95; the
report is decision D15). -/
def Obligations.UnknownOpcodeIsSkippedAndReported : Prop :=
  ∀ (s : State) (w : Word), s.halt = false → s.fetchWord = some w → decodeWord w = none →
    ∃ t, step s = .next t ∧ t.pc = s.pc + 2#16 ∧ t.dt.toNat = s.dt.toNat - 1 ∧ t.st.toNat = s.st.toNat - 1 ∧
      t.out = ⟨false, s.st == 0x01#8, some w⟩ ∧ SameRegs (fun _ => False) s t ∧ t.i = s.i ∧ SameCallStack s t ∧
      SameDisplay s t ∧ SameMemory (fun _ => False) s t ∧ SameFaultAndKeys s t ∧ t.draws = s.draws

/-- A fetch past 0xFFE is the fault of code 3 with detail PC, and nothing else changes (R91, R203; decisions D4, D8). -/
def Obligations.FetchPastMemoryFaults : Prop :=
  ∀ s : State, s.halt = false → 0xFFE < s.pc.toNat →
    step s = .next { s with halt := true, cause := 3#3, info := s.pc ++ s.pc, out := ⟨false, false, none⟩ }

/-- R99: a halted core's tick does nothing, no key edge wakes it, and only reset leaves the halted state. -/
def Obligations.HaltedCoreDoesNothing : Prop :=
  ∀ s : State, s.halt = true →
    step s = .next { s with out := ⟨false, false, none⟩ } ∧
    (∀ e t, applyEvent s e = .next t → (t.halt = false ↔ ∃ rest font program, e = .load rest font program))

/-- R187: a tick that does not fault ends with the timer phase: both timers count down and stop at 0, `beep` marks the tick
in which ST goes from 1 to 0, and nothing else changes; so a timer holding N reaches 0 after N phases and stays there, and a
tick that raises a fault, or a halted one, leaves both timers as they were and asserts no `beep` (R98, R99: that a faulting and
a halted tick run no timer phase is decision D8). -/
def Obligations.TimersCountDownAtTheEndOfATick : Prop :=
  (∀ (s u : State) (w : Word), s.halt = false → s.fetchWord = some w → execWord w s.clearOut = .next u → u.halt = false →
    ∃ t, step s = .next t ∧ t.dt.toNat = u.dt.toNat - 1 ∧ t.st.toNat = u.st.toNat - 1 ∧
      (t.out.beep = true ↔ u.st = 0x01#8) ∧
      t = { u with dt := t.dt, st := t.st, out := { u.out with beep := t.out.beep } }) ∧
  (∀ s t : State, step s = .next t → t.halt = true → t.dt = s.dt ∧ t.st = s.st ∧ t.out.beep = false) ∧
  (∀ (s : State) (n : Nat), (timerPhase^[n] s).dt.toNat = s.dt.toNat - n ∧ (timerPhase^[n] s).st.toNat = s.st.toNat - n ∧
    ((timerPhase^[n + 1] s).out.beep = true ↔ s.st.toNat = n + 1))

/-- Every tick, of every state, answers a next state: the machine has no stuck tick (R90, R99, R206). -/
def Obligations.EveryTickAnswersANextState : Prop := ∀ s : State, ∃ t, step s = .next t

/-- A running core's tick raises exactly the fault that R200's table gives for its state, with that code and detail, and
changes nothing else (R98, R206); where the table gives none, it raises none. (Faults and their recording are the spec's
decisions D3, D4, D5, D8.) -/
def Obligations.TicksFaultExactlyAsTheTableSays : Prop :=
  ∀ s : State, s.halt = false →
    (∀ c d, s.tableFault = some (c, d) → step s = .next { s with
        halt := true, cause := causeCode c, info := s.pc ++ BitVec.ofNat 16 d, out := ⟨false, false, none⟩ }) ∧
    (s.tableFault = none → ∃ t, step s = .next t ∧ t.halt = false ∧ t.cause = s.cause ∧ t.info = s.info)

/-- What the outputs of the last tick were has no effect on a tick (R34). -/
def Obligations.OutputsFeedBackIntoNothing : Prop :=
  ∀ (s : State) (o : TickOut), step { s with out := o } = step s

/-! ### Control transfer (41_control_flow.md) -/

/-- R113, R114: the skips against an immediate. -/
def Obligations.ImmediateSkips : Prop :=
  ∀ (s : State) (x : Reg) (nn : Byte),
    (decodeTableWord 16 (0x3000 + 256 * x.toNat + nn.toNat) = some (.seImm x nn) ∧
      SetsPc (.seImm x nn) s (if s.getV x = nn then s.pc + 2#16 + 2#16 else s.pc + 2#16)) ∧
    (decodeTableWord 16 (0x4000 + 256 * x.toNat + nn.toNat) = some (.sneImm x nn) ∧
      SetsPc (.sneImm x nn) s (if s.getV x = nn then s.pc + 2#16 else s.pc + 2#16 + 2#16))

/-- R115, R116: the skips that compare two registers; 5xyN and 9xyN with N other than 0 are unknown opcodes (decision D1). -/
def Obligations.RegisterSkips : Prop :=
  ∀ (s : State) (x y : Reg),
    (∀ n : Nibble, decodeTableWord 16 (0x5000 + 256 * x.toNat + 16 * y.toNat + n.toNat) =
      if n = 0#4 then some (.seReg x y) else none) ∧
    SetsPc (.seReg x y) s (if s.getV x = s.getV y then s.pc + 2#16 + 2#16 else s.pc + 2#16) ∧
    (∀ n : Nibble, decodeTableWord 16 (0x9000 + 256 * x.toNat + 16 * y.toNat + n.toNat) =
      if n = 0#4 then some (.sneReg x y) else none) ∧
    SetsPc (.sneReg x y) s (if s.getV x = s.getV y then s.pc + 2#16 else s.pc + 2#16 + 2#16)

/-- R111, R117: the jumps. JP.V0 adds the whole of V0 and is not reduced to 12 bits (decision D19), so its target is at most
0x10FE; a target above 0xFFE is not faulted here but at the next fetch (decision D4). -/
def Obligations.JumpTargets : Prop :=
  ∀ (s : State) (nnn : Addr12),
    SetsPc (.jp nnn) s (BitVec.ofNat 16 nnn.toNat) ∧
    SetsPc (.jpV0 nnn) s (BitVec.ofNat 16 (nnn.toNat + (s.getV 0x0#4).toNat)) ∧
    (∀ t, exec (.jp nnn) s = .next t → (t.fetchWord = none ↔ nnn = 0xFFF#12)) ∧
    (∀ t, exec (.jpV0 nnn) s = .next t →
      t.pc.toNat ≤ 0x10FE ∧ (t.fetchWord = none ↔ 0xFFE < nnn.toNat + (s.getV 0x0#4).toNat))

/-- R112 below SP = 16: `pc_next` is pushed at the entry SP names, SP goes up by one, PC is the target (the order of the push
is decision D17). -/
def Obligations.CallPushesTheFollowingAddress : Prop :=
  ∀ (s : State) (nnn : Addr12) (k : Fin 16), s.sp.val = k.val →
    ∃ t, exec (.call nnn) s = .next t ∧ t.pc = BitVec.ofNat 16 nnn.toNat ∧ t.sp.val = s.sp.val + 1 ∧
      t.stackAt k = s.pc + 2#16 ∧ SameStack (· = k) s t ∧ t.halt = s.halt

/-- R110 above SP = 0: SP goes down by one and PC is the entry it then names; the entries are left in place. -/
def Obligations.ReturnPopsTheTopEntry : Prop :=
  ∀ (s : State) (k : Fin 16), s.sp.val = k.val + 1 →
    ∃ t, exec .ret s = .next t ∧ t.pc = s.stackAt k ∧ t.sp.val = k.val ∧ SameStack (fun _ => False) s t ∧ t.halt = s.halt

/-- R201, R202: a call with all 16 entries in use and a return with none are the faults of codes 1 and 2, and nothing else
changes, PC included (decision D8). -/
def Obligations.StackOverflowAndUnderflowFault : Prop :=
  ∀ (s : State) (nnn : Addr12),
    (s.sp.val = 16 → exec (.call nnn) s = .next { s with halt := true, cause := 1#3, info := s.pc ++ 16#16 }) ∧
    (s.sp.val = 0 → exec .ret s = .next { s with halt := true, cause := 2#3, info := s.pc ++ 0#16 })

/-- A return executed right after a call goes to the instruction after the call and leaves SP as it was before it, whatever
the target was (R92, R110, R112). -/
def Obligations.ReturnAfterCallComesBack : Prop :=
  ∀ (s : State) (nnn : Addr12), s.sp.val < 16 →
    ∃ t u, exec (.call nnn) s = .next t ∧ exec .ret t = .next u ∧ u.pc = s.pc + 2#16 ∧ u.sp = s.sp ∧
      SameStack (fun k => k.val = s.sp.val) s u

/-! ### Arithmetic (42_alu.md) -/

/-- R130 to R135: load, add an immediate with no flag, copy, OR, AND, XOR. -/
def Obligations.LoadAddImmediateAndLogicResults : Prop :=
  ∀ (s : State) (x y : Reg) (nn : Byte),
    (decodeTableWord 16 (0x6000 + 256 * x.toNat + nn.toNat) = some (.ldImm x nn) ∧
      WritesRegister (.ldImm x nn) s x nn) ∧
    (decodeTableWord 16 (0x7000 + 256 * x.toNat + nn.toNat) = some (.addImm x nn) ∧
      WritesRegister (.addImm x nn) s x (BitVec.ofNat 8 (((s.getV x).toNat + nn.toNat) % 256))) ∧
    (decodeTableWord 16 (0x8000 + 256 * x.toNat + 16 * y.toNat) = some (.ldReg x y) ∧
      WritesRegister (.ldReg x y) s x (s.getV y)) ∧
    (decodeTableWord 16 (0x8001 + 256 * x.toNat + 16 * y.toNat) = some (.orReg x y) ∧
      WritesRegister (.orReg x y) s x (s.getV x ||| s.getV y)) ∧
    (decodeTableWord 16 (0x8002 + 256 * x.toNat + 16 * y.toNat) = some (.andReg x y) ∧
      WritesRegister (.andReg x y) s x (s.getV x &&& s.getV y)) ∧
    (decodeTableWord 16 (0x8003 + 256 * x.toNat + 16 * y.toNat) = some (.xorReg x y) ∧
      WritesRegister (.xorReg x y) s x (s.getV x ^^^ s.getV y))

/-- R129, R136, R137, R139: the sum or difference modulo 256 and the carry or borrow in VF. With x = 15 the flag is what VF
keeps (R96, decision D2). -/
def Obligations.AddAndSubtractResults : Prop :=
  ∀ (s : State) (x y : Reg),
    (∃ t, exec (.addReg x y) s = .next t ∧ t.pc = s.pc + 2#16 ∧ SameRegs (fun r => r = x ∨ r = vf) s t ∧ t.halt = s.halt ∧
      (t.getV vf).toNat = (if 255 < (s.getV x).toNat + (s.getV y).toNat then 1 else 0) ∧
      (x ≠ vf → (t.getV x).toNat = ((s.getV x).toNat + (s.getV y).toNat) % 256)) ∧
    (∃ t, exec (.subReg x y) s = .next t ∧ t.pc = s.pc + 2#16 ∧ SameRegs (fun r => r = x ∨ r = vf) s t ∧ t.halt = s.halt ∧
      (t.getV vf).toNat = (if (s.getV x).toNat < (s.getV y).toNat then 1 else 0) ∧
      (x ≠ vf → ((t.getV x).toNat : Int) = ((s.getV x).toNat - (s.getV y).toNat : Int) % 256)) ∧
    (∃ t, exec (.subn x y) s = .next t ∧ t.pc = s.pc + 2#16 ∧ SameRegs (fun r => r = x ∨ r = vf) s t ∧ t.halt = s.halt ∧
      (t.getV vf).toNat = (if (s.getV y).toNat < (s.getV x).toNat then 1 else 0) ∧
      (x ≠ vf → ((t.getV x).toNat : Int) = ((s.getV y).toNat - (s.getV x).toNat : Int) % 256))

/-- R138, R140: the shifts by one, and the bit shifted out in VF; Vy is not read. With x = 15 the shifted value is what VF
keeps (R96, decision D2). -/
def Obligations.ShiftResults : Prop :=
  ∀ (s : State) (x y : Reg),
    (∃ t, exec (.shr x y) s = .next t ∧ t.pc = s.pc + 2#16 ∧ SameRegs (fun r => r = x ∨ r = vf) s t ∧ t.halt = s.halt ∧
      (t.getV x).toNat = (s.getV x).toNat / 2 ∧ (x ≠ vf → (t.getV vf).toNat = (s.getV x).toNat % 2)) ∧
    (∃ t, exec (.shl x y) s = .next t ∧ t.pc = s.pc + 2#16 ∧ SameRegs (fun r => r = x ∨ r = vf) s t ∧ t.halt = s.halt ∧
      (t.getV x).toNat = (s.getV x).toNat * 2 % 256 ∧ (x ≠ vf → (t.getV vf).toNat = (s.getV x).toNat / 128))

/-- R141: whatever byte the random source supplies, the result has no bit that the mask has not, and it is that byte under
the mask; each execution takes the next byte (decision D12; the source is log entry 4's free value). -/
def Obligations.RandomByteUnderTheMask : Prop :=
  ∀ (s : State) (x : Reg) (nn : Byte),
    (∃ t rand, exec (.rnd x nn) s = .next t ∧ rand = Config.randIn s.draws ∧ t.getV x = rand &&& nn ∧
      (∀ k, nn.getLsbD k = false → (t.getV x).getLsbD k = false) ∧ t.draws = s.draws + 1 ∧
      OnlyRegsAndPc (· = x) s t ∧ t.out = s.out ∧ t.pc = s.pc + 2#16) ∧
    (∀ rand : Byte, (rndWith rand x nn s).getV x = rand &&& nn)

/-! ### Index register and memory (43_index_memory.md) -/

/-- R150: LDI puts the zero-extended address in I, always below 0x1000. -/
def Obligations.LoadIndexResult : Prop :=
  ∀ (s : State) (nnn : Addr12),
    decodeTableWord 16 (0xA000 + nnn.toNat) = some (.ldIndex nnn) ∧
    ∃ t, exec (.ldIndex nnn) s = .next t ∧ t.i.toNat = nnn.toNat ∧ t.i.toNat ≤ 0xFFF ∧ t.pc = s.pc + 2#16 ∧
      SameRegs (fun _ => False) s t ∧ t.halt = s.halt

/-- R151, R152: ADDI wraps modulo 65536 and leaves VF (decision D7); FONT multiplies the whole byte by 5 (decision D6). -/
def Obligations.AddIndexAndFontResults : Prop :=
  ∀ (s : State) (x : Reg),
    (∃ t, exec (.addIndex x) s = .next t ∧ t.i.toNat = (s.i.toNat + (s.getV x).toNat) % 65536 ∧ t.pc = s.pc + 2#16 ∧
      SameRegs (fun _ => False) s t ∧ t.halt = s.halt) ∧
    (∃ t, exec (.font x) s = .next t ∧ t.i.toNat = (s.getV x).toNat * 5 ∧ t.pc = s.pc + 2#16 ∧
      SameRegs (fun _ => False) s t ∧ t.halt = s.halt)

/-- R153 inside memory: the three bytes at I are the decimal digits of Vx, hundreds first, each 0 to 9. -/
def Obligations.BcdStoresTheDigits : Prop :=
  ∀ (s : State) (x : Reg), s.mem.wf → s.i.toNat ≤ 0xFFD →
    ∃ t, exec (.bcd x) s = .next t ∧ t.pc = s.pc + 2#16 ∧ t.halt = s.halt ∧
      (s.getV x).toNat = 100 * (t.readByte s.i.toNat).toNat + 10 * (t.readByte (s.i.toNat + 1)).toNat +
        (t.readByte (s.i.toNat + 2)).toNat ∧
      (t.readByte s.i.toNat).toNat ≤ 2 ∧ (t.readByte (s.i.toNat + 1)).toNat ≤ 9 ∧ (t.readByte (s.i.toNat + 2)).toNat ≤ 9

/-- R154 inside memory: V0 to Vx, at I and up, the first at I itself. -/
def Obligations.StmStoresTheRegisters : Prop :=
  ∀ (s : State) (x : Reg), s.mem.wf → s.i.toNat + x.toNat ≤ 4095 →
    ∃ t, exec (.stm x) s = .next t ∧ t.pc = s.pc + 2#16 ∧ t.i = s.i ∧ t.halt = s.halt ∧
      ∀ r : Reg, r.toNat ≤ x.toNat → t.readByte (s.i.toNat + r.toNat) = s.getV r

/-- R155 inside memory: V0 to Vx take the bytes at I and up; VF too where x = 15. -/
def Obligations.LdmLoadsTheRegisters : Prop :=
  ∀ (s : State) (x : Reg), s.i.toNat + x.toNat ≤ 4095 →
    ∃ t, exec (.ldm x) s = .next t ∧ t.pc = s.pc + 2#16 ∧ t.i = s.i ∧ t.halt = s.halt ∧
      ∀ r : Reg, r.toNat ≤ x.toNat → t.getV r = s.readByte (s.i.toNat + r.toNat)

/-- R204: an access whose last byte lies above 4095 is the fault of code 4 with that address, modulo 65536, as its detail, and
nothing else changes (decisions D3, D8). DRW with n = 0 accesses nothing and never faults, whatever I holds. -/
def Obligations.DataPastMemoryFaults : Prop :=
  ∀ (s : State) (x y : Reg) (n : Nibble),
    (4095 < s.i.toNat + 2 → exec (.bcd x) s =
      .next { s with halt := true, cause := 4#3, info := s.pc ++ BitVec.ofNat 16 (s.i.toNat + 2) }) ∧
    (4095 < s.i.toNat + x.toNat → exec (.stm x) s =
      .next { s with halt := true, cause := 4#3, info := s.pc ++ BitVec.ofNat 16 (s.i.toNat + x.toNat) }) ∧
    (4095 < s.i.toNat + x.toNat → exec (.ldm x) s =
      .next { s with halt := true, cause := 4#3, info := s.pc ++ BitVec.ofNat 16 (s.i.toNat + x.toNat) }) ∧
    (0 < n.toNat → 4095 < s.i.toNat + n.toNat - 1 → exec (.drw x y n) s =
      .next { s with halt := true, cause := 4#3, info := s.pc ++ BitVec.ofNat 16 (s.i.toNat + n.toNat - 1) }) ∧
    (n.toNat = 0 → ∃ t, exec (.drw x y n) s = .next t ∧ t.halt = s.halt ∧ t.cause = s.cause ∧ t.info = s.info)

/-- The source's round trip (R154, R155; 95_test_vectors.md S8): what STM stored, LDM loads back from the same I into a state
that has the same memory and any registers. -/
def Obligations.StmThenLdmRestoresTheRegisters : Prop :=
  ∀ (s t : State) (x : Reg), s.mem.wf → s.i.toNat + x.toNat ≤ 4095 → exec (.stm x) s = .next t →
    ∀ t' : State, t'.mem = t.mem → t'.i = s.i →
      ∃ u, exec (.ldm x) t' = .next u ∧ ∀ r : Reg, r.toNat ≤ x.toNat → u.getV r = s.getV r

/-- R62: the bytes STM stored are what a later fetch from there decodes, with nothing in between. -/
def Obligations.StoredBytesAreFetched : Prop :=
  ∀ (s t : State) (x r : Reg), s.mem.wf → s.i.toNat + x.toNat ≤ 4095 → r.toNat < x.toNat → exec (.stm x) s = .next t →
    ∀ t' : State, t'.mem = t.mem → t'.pc.toNat = s.i.toNat + r.toNat →
      t'.fetchWord = some (wordOfBytes (s.getV r) (s.getV (r + 1#4)))

/-! ### Display (44_display.md) -/

/-- R170: every pixel off, whatever was there; VF as it was; the display-changed output not raised (decision D13). -/
def Obligations.ClearTurnsEveryPixelOff : Prop :=
  ∀ s : State, ∃ t, exec .cls s = .next t ∧ (∀ p, pixelAt t.disp p = false) ∧ t.pc = s.pc + 2#16 ∧
    SameRegs (fun _ => False) s t ∧ t.out = s.out ∧ t.halt = s.halt

/-- R171, the loop over rows and columns in closed form: a pixel changes exactly where the sprite has a 1 bit on it, each
coordinate wrapped by itself, and VF is 1 exactly when a pixel that was lit is turned off. The coordinates are the old Vx and
Vy also where x or y is 15 (R96, decision D2). -/
def Obligations.DrawFlipsTheCoveredPixels : Prop :=
  ∀ (s : State) (x y : Reg) (n : Nibble), (n.toNat = 0 ∨ s.i.toNat + n.toNat - 1 ≤ 4095) →
    ∃ t, exec (.drw x y n) s = .next t ∧ t.pc = s.pc + 2#16 ∧ t.halt = s.halt ∧ t.out.displayChanged = true ∧
      (∀ px py, px < 64 → py < 32 → (pixelAt t.disp (px + py * 64) ≠ pixelAt s.disp (px + py * 64) ↔
        SpriteCovers s (s.getV x) (s.getV y) n.toNat px py)) ∧
      (t.getV vf = 0x00#8 ∨ t.getV vf = 0x01#8) ∧
      (t.getV vf = 0x01#8 ↔ ∃ px py, px < 64 ∧ py < 32 ∧ pixelAt s.disp (px + py * 64) = true ∧
        SpriteCovers s (s.getV x) (s.getV y) n.toNat px py)

/-- R171 (e), "XOR idempotence": the same sprite drawn a second time at the same place restores the display. -/
def Obligations.DrawingTwiceRestoresTheDisplay : Prop :=
  ∀ (s t : State) (x y x' y' : Reg) (n : Nibble), (n.toNat = 0 ∨ s.i.toNat + n.toNat - 1 ≤ 4095) →
    exec (.drw x y n) s = .next t → t.getV x' = s.getV x → t.getV y' = s.getV y →
      ∃ u, exec (.drw x' y' n) t = .next u ∧ u.disp = s.disp

/-! ### Keypad and timers (45_keypad_timers.md) -/

/-- R180, R181 for a key index 0 to 15: the key named by the VALUE of Vx is tested, and no other. -/
def Obligations.KeySkips : Prop :=
  ∀ (s : State) (x : Reg) (k : Fin 16), (s.getV x).toNat = k.val →
    SetsPc (.skp x) s (if s.keys.getLsbD k.val then s.pc + 2#16 + 2#16 else s.pc + 2#16) ∧
    SetsPc (.sknp x) s (if s.keys.getLsbD k.val then s.pc + 2#16 else s.pc + 2#16 + 2#16)

/-- R205: a key index above 15 is the fault of code 5 with the index as detail, and nothing else changes (decisions D5, D8). -/
def Obligations.KeyIndexAboveFifteenFaults : Prop :=
  ∀ (s : State) (x : Reg), 15 < (s.getV x).toNat →
    exec (.skp x) s = .next { s with halt := true, cause := 5#3, info := s.pc ++ zextByte (s.getV x) } ∧
    exec (.sknp x) s = .next { s with halt := true, cause := 5#3, info := s.pc ++ zextByte (s.getV x) }

/-- R182: LD.DT copies DT as the last tick left it; the tick that runs it then counts DT down. -/
def Obligations.ReadDelayTimer : Prop :=
  ∀ (s : State) (x : Reg),
    decodeTableWord 16 (0xF007 + 256 * x.toNat) = some (.ldDelay x) ∧
    WritesRegister (.ldDelay x) s x s.dt ∧ (∀ t, exec (.ldDelay x) s = .next t → t.dt = s.dt) ∧
    (RunsAt s (.ldDelay x) → ∃ t, step s = .next t ∧ t.getV x = s.dt ∧ t.dt.toNat = s.dt.toNat - 1)

/-- R183: with no key pressed PC stays at the instruction, no register changes and the tick still counts the timers, so the
next tick runs it again; with one, Vx takes the lowest-indexed pressed key and PC moves on. -/
def Obligations.WaitForKey : Prop :=
  ∀ (s : State) (x : Reg),
    decodeTableWord 16 (0xF00A + 256 * x.toNat) = some (.waitKey x) ∧
    (s.keys = 0x0000#16 → SetsPc (.waitKey x) s s.pc) ∧
    (∀ k : Fin 16, s.keys.getLsbD k.val = true → (∀ j, j < k.val → s.keys.getLsbD j = false) →
      WritesRegister (.waitKey x) s x (BitVec.ofNat 8 k.val)) ∧
    (RunsAt s (.waitKey x) → s.keys = 0x0000#16 →
      ∃ t, step s = .next t ∧ t.pc = s.pc ∧ SameRegs (fun _ => False) s t ∧ t.dt.toNat = s.dt.toNat - 1 ∧
        t.st.toNat = s.st.toNat - 1 ∧ RunsAt t (.waitKey x))

/-- R184, R185: the timers take Vx, and the tick that loads one already counts it down: the N-th tick, the loading one
included, brings it to 0; ST beeps in that tick and in no other; and no instruction reads ST: with another value in it, an
instruction does the same to everything else. -/
def Obligations.SetTimers : Prop :=
  ∀ (s : State) (x : Reg),
    (decodeTableWord 16 (0xF015 + 256 * x.toNat) = some (.setDelay x) ∧
      ∃ t, exec (.setDelay x) s = .next t ∧ t.dt = s.getV x ∧ t.pc = s.pc + 2#16 ∧ SameRegs (fun _ => False) s t ∧
        t.halt = s.halt) ∧
    (RunsAt s (.setDelay x) → ∃ t, step s = .next t ∧
      ∀ k, (timerPhase^[k] t).dt.toNat = (s.getV x).toNat - 1 - k) ∧
    (decodeTableWord 16 (0xF018 + 256 * x.toNat) = some (.setSound x) ∧
      ∃ t, exec (.setSound x) s = .next t ∧ t.st = s.getV x ∧ t.pc = s.pc + 2#16 ∧ SameRegs (fun _ => False) s t ∧
        t.halt = s.halt) ∧
    (RunsAt s (.setSound x) → ∃ t, step s = .next t ∧
      ∀ k, (timerPhase^[k] t).st.toNat = (s.getV x).toNat - 1 - k ∧
        ((timerPhase^[k] t).out.beep = true ↔ (s.getV x).toNat = k + 1)) ∧
    (∀ (i : Instr) (b : Byte) (t : State), exec i s = .next t →
      ∃ t', exec i { s with st := b } = .next t' ∧ { t' with st := t.st } = t)

/-- R186: a key edge changes its own bit of K and nothing else (when it may come is decision D11). -/
def Obligations.KeyEdgesChangeOneBit : Prop :=
  ∀ (s : State) (k : Fin 16),
    (keyDown k s = { s with keys := (keyDown k s).keys } ∧
      ∀ j, j < 16 → (keyDown k s).keys.getLsbD j = (decide (j = k.val) || s.keys.getLsbD j)) ∧
    (keyUp k s = { s with keys := (keyUp k s).keys } ∧
      ∀ j, j < 16 → (keyUp k s).keys.getLsbD j = (!decide (j = k.val) && s.keys.getLsbD j))

/-! ### Frames: what each instruction leaves alone (40_cycle.md R97, decision D20) -/

/-- The instructions that write only general registers: their destination, VF for those that set it as the flag, V0 to Vx for
LDM in range; PC may change, and nothing else does. RND also counts a random byte. -/
def Obligations.FrameOfRegisterInstructions : Prop :=
  ∀ (s : State) (x y : Reg) (nn : Byte) (i : Instr),
    (i ∈ [.ldImm x nn, .addImm x nn, .ldReg x y, .orReg x y, .andReg x y, .xorReg x y, .ldDelay x, .waitKey x] →
      ∃ t, exec i s = .next t ∧ OnlyRegsAndPc (· = x) s t ∧ SameOutputs s t) ∧
    (i ∈ [.addReg x y, .subReg x y, .shr x y, .subn x y, .shl x y] →
      ∃ t, exec i s = .next t ∧ OnlyRegsAndPc (fun r => r = x ∨ r = vf) s t ∧ SameOutputs s t) ∧
    (i = .rnd x nn → ∃ t, exec i s = .next t ∧ OnlyRegsAndPc (· = x) s t ∧ t.out = s.out) ∧
    (i = .ldm x → s.i.toNat + x.toNat ≤ 4095 →
      ∃ t, exec i s = .next t ∧ OnlyRegsAndPc (fun r => r.toNat ≤ x.toNat) s t ∧ SameOutputs s t)

/-- The jumps and skips change PC alone; the key skips for a key index 0 to 15. -/
def Obligations.FrameOfJumpsAndSkips : Prop :=
  ∀ (s : State) (x y : Reg) (nn : Byte) (nnn : Addr12) (i : Instr),
    (i ∈ [.jp nnn, .jpV0 nnn, .seImm x nn, .sneImm x nn, .seReg x y, .sneReg x y] →
      ∃ t, exec i s = .next t ∧ t = { s with pc := t.pc }) ∧
    (i ∈ [.skp x, .sknp x] → (s.getV x).toNat ≤ 15 → ∃ t, exec i s = .next t ∧ t = { s with pc := t.pc })

/-- CALL changes SP, the entry it pushes and PC; RET changes SP and PC; nothing else (a full or empty stack faults instead). -/
def Obligations.FrameOfCallAndReturn : Prop :=
  ∀ (s : State) (nnn : Addr12),
    (s.sp.val < 16 → ∃ t, exec (.call nnn) s = .next t ∧ SameStack (fun k => k.val = s.sp.val) s t ∧
      t = { s with pc := t.pc, sp := t.sp, stack := t.stack }) ∧
    (0 < s.sp.val → ∃ t, exec .ret s = .next t ∧ t = { s with pc := t.pc, sp := t.sp })

/-- LDI, ADDI and FONT change I and PC alone: no register, VF included, no memory. -/
def Obligations.FrameOfIndexInstructions : Prop :=
  ∀ (s : State) (x : Reg) (nnn : Addr12) (i : Instr), i ∈ [.ldIndex nnn, .addIndex x, .font x] →
    ∃ t, exec i s = .next t ∧ t = { s with pc := t.pc, i := t.i }

/-- BCD and STM in range change PC and the bytes they store, and nothing else: I, the registers and every other byte are as
before. The address stored to is the effective address of offset 0, as the meanings compute it. -/
def Obligations.FrameOfStores : Prop :=
  ∀ (s : State) (x : Reg), s.mem.wf →
    (s.i.toNat + 2 ≤ 4095 → ∃ t, exec (.bcd x) s = .next t ∧ t = { s with pc := t.pc, mem := t.mem } ∧
      ∀ a, effAddr s.i 0 = a → SameMemory (fun k => a ≤ k ∧ k < a + 3) s t) ∧
    (s.i.toNat + x.toNat ≤ 4095 → ∃ t, exec (.stm x) s = .next t ∧ t = { s with pc := t.pc, mem := t.mem } ∧
      ∀ a, effAddr s.i 0 = a → SameMemory (fun k => a ≤ k ∧ k < a + (x.toNat + 1)) s t)

/-- CLS changes the display and PC; DRW in range changes the display, PC, VF and its output; nothing else. -/
def Obligations.FrameOfDisplayInstructions : Prop :=
  ∀ (s : State) (x y : Reg) (n : Nibble),
    (∃ t, exec .cls s = .next t ∧ t = { s with pc := t.pc, disp := t.disp }) ∧
    ((n.toNat = 0 ∨ s.i.toNat + n.toNat - 1 ≤ 4095) → ∃ t, exec (.drw x y n) s = .next t ∧ SameRegs (· = vf) s t ∧
      t = { s with pc := t.pc, disp := t.disp, v := t.v, out := { s.out with displayChanged := true } })

/-- ST.DT changes DT and PC, ST.ST changes ST and PC, before the tick's timer phase; nothing else. -/
def Obligations.FrameOfTimerWrites : Prop :=
  ∀ (s : State) (x : Reg),
    (∃ t, exec (.setDelay x) s = .next t ∧ t = { s with pc := t.pc, dt := t.dt }) ∧
    (∃ t, exec (.setSound x) s = .next t ∧ t = { s with pc := t.pc, st := t.st })

/-! ### Whole-machine rules -/

/-- Each piece of state has no writer among the instructions but those the spec names: DT and ST (R97), K none (R29), I (R22),
Disp (R28), Mem (R50), SP and the stack (R24, R25). -/
def Obligations.OnlyTheNamedInstructionsWrite : Prop :=
  ∀ (i : Instr) (s t : State), exec i s = .next t →
    t.keys = s.keys ∧
    (t.dt ≠ s.dt → ∃ x, i = .setDelay x) ∧ (t.st ≠ s.st → ∃ x, i = .setSound x) ∧
    (t.i ≠ s.i → (∃ nnn, i = .ldIndex nnn) ∨ (∃ x, i = .addIndex x) ∨ (∃ x, i = .font x)) ∧
    (t.disp ≠ s.disp → i = .cls ∨ ∃ x y n, i = .drw x y n) ∧
    (t.mem ≠ s.mem → (∃ x, i = .bcd x) ∨ ∃ x, i = .stm x) ∧
    (t.sp ≠ s.sp ∨ t.stack ≠ s.stack → i = .ret ∨ ∃ nnn, i = .call nnn) ∧
    (t.draws ≠ s.draws → ∃ x nn, i = .rnd x nn)

/-- A register changes only under an instruction that R20 and R21 list as its writer; so VF changes only under the six that
set the flag, or as a destination. -/
def Obligations.RegistersChangeOnlyUnderTheirWriters : Prop :=
  ∀ (i : Instr) (s t : State) (r : Reg), exec i s = .next t → t.getV r ≠ s.getV r → Instr.mayWrite r i = true

/-- The invariant (`State.Inv`) is kept by every tick. -/
def Obligations.EveryTickKeepsTheInvariant : Prop :=
  ∀ s t : State, s.Inv → step s = .next t → t.Inv

/-- The invariant is kept by whatever the host does: ticks, key edges and loads in any order and number. -/
def Obligations.EveryRunKeepsTheInvariant : Prop :=
  ∀ (es : List Event) (s t : State), s.Inv → runEvents s es = .next t → t.Inv

/-- The invariant holds at reset. -/
def Obligations.InvariantHoldsAtReset : Prop := State.reset.Inv

/-- Call-stack entries at or above SP are unobservable (R24): two states that differ only there step to states that differ
only there. So the value the model gives them at reset (log entry 3) is seen by no tick. -/
def Obligations.DeadStackEntriesAreUnobservable : Prop :=
  ∀ s t : State, SameButDeadStack s t → ∃ s' t', step s = .next s' ∧ step t = .next t' ∧ SameButDeadStack s' t'

/-- A parked core (R247, a convention of programs, decision D18) is at a fixpoint: a tick changes nothing. -/
def Obligations.ParkedCoreStaysAsItIs : Prop :=
  ∀ s : State, s.Parked → step s = .next { s with out := ⟨false, false, none⟩ }

/-! ### Reset (70_reset_and_hazards.md) -/

/-- R240: a load with a font of 80 bytes and a program of at most 3584 gives the reset state with the font, the program and
the rest of memory in place; any other is refused and gives no state. -/
def Obligations.ResetLoadGivesTheResetState : Prop :=
  ∀ (rest : Memory) (font program : List Byte) (draws : Nat),
    (font.length = 80 → program.length ≤ 3584 →
      ∃ t, resetLoad rest font program draws = .next t ∧
        (∀ a, a < 80 → t.readByte a = font.getD a 0x00#8) ∧
        (∀ j, j < program.length → t.readByte (0x200 + j) = program.getD j 0x00#8) ∧
        (∀ a, 80 ≤ a → a < 4096 → ¬ (0x200 ≤ a ∧ a < 0x200 + program.length) → t.readByte a = rest.read a) ∧
        (∀ r, t.getV r = 0x00#8) ∧ t.i = 0x0000#16 ∧ t.pc = 0x0200#16 ∧ t.sp.val = 0 ∧ t.dt = 0x00#8 ∧ t.st = 0x00#8 ∧
        (∀ p, pixelAt t.disp p = false) ∧ t.keys = 0x0000#16 ∧ t.halt = false ∧ t.cause = 0#3 ∧ t.info = 0#32) ∧
    (font.length ≠ 80 ∨ 3584 < program.length → resetLoad rest font program draws = .fault .loadError)

/-- The model's `State.reset` is the load of an all-zero font, an empty program and an all-zero rest (the model's choice,
log entries 1, 2 and 3: the spec leaves these bytes and the stack entries open), whatever the count of random bytes there. -/
def Obligations.ResetIsTheEmptyLoad : Prop :=
  resetLoad [] (List.replicate 80 0x00#8) [] State.reset.draws = .next State.reset
end

