-- ==== Sys2Proof/Laws/Decode.lean ====
section
/-! SUPPORT. The fields of an encoded word, format by format (spec 30_encoding.md R71, R72), and what the masks of the
opcode map keep (R74). -/

namespace Sys2Proof

section fields
variable (f x y n : Nibble) (nn : Byte) (nnn : Addr12)

/-! The bits of an encoded word. -/

theorem getLsbD_encodeA (k : Nat) :
    (encodeA f nnn).getLsbD k = if k < 12 then nnn.getLsbD k else f.getLsbD (k - 12) :=
  BitVec.getLsbD_append

theorem getLsbD_encodeXI (k : Nat) : (encodeXI f x nn).getLsbD k =
    if k < 8 then nn.getLsbD k else if k - 8 < 4 then x.getLsbD (k - 8) else f.getLsbD (k - 8 - 4) :=
  BitVec.getLsbD_append.trans (by rw [BitVec.getLsbD_append])

theorem getLsbD_encodeXY (k : Nat) : (encodeXY f x y n).getLsbD k =
    if k < 4 then n.getLsbD k else if k - 4 < 4 then y.getLsbD (k - 4)
    else if k - 4 - 4 < 4 then x.getLsbD (k - 4 - 4) else f.getLsbD (k - 4 - 4 - 4) :=
  BitVec.getLsbD_append.trans (by rw [BitVec.getLsbD_append, BitVec.getLsbD_append])

/-! Its fields. -/

@[simp] theorem fieldFamily_encodeA : fieldFamily (encodeA f nnn) = f := by
  apply BitVec.eq_of_getLsbD_eq; intro k hk
  simp only [fieldFamily, getLsbD_encodeA, BitVec.getLsbD_extractLsb']
  interval_cases k <;> simp

@[simp] theorem fieldNNN_encodeA : fieldNNN (encodeA f nnn) = nnn := by
  apply BitVec.eq_of_getLsbD_eq; intro k hk
  simp only [fieldNNN, getLsbD_encodeA, BitVec.getLsbD_extractLsb']
  interval_cases k <;> simp

@[simp] theorem fieldFamily_encodeXI : fieldFamily (encodeXI f x nn) = f := by
  apply BitVec.eq_of_getLsbD_eq; intro k hk
  simp only [fieldFamily, getLsbD_encodeXI, BitVec.getLsbD_extractLsb']
  interval_cases k <;> simp

@[simp] theorem fieldX_encodeXI : fieldX (encodeXI f x nn) = x := by
  apply BitVec.eq_of_getLsbD_eq; intro k hk
  simp only [fieldX, getLsbD_encodeXI, BitVec.getLsbD_extractLsb']
  interval_cases k <;> simp

@[simp] theorem fieldNN_encodeXI : fieldNN (encodeXI f x nn) = nn := by
  apply BitVec.eq_of_getLsbD_eq; intro k hk
  simp only [fieldNN, getLsbD_encodeXI, BitVec.getLsbD_extractLsb']
  interval_cases k <;> simp

@[simp] theorem fieldFamily_encodeXY : fieldFamily (encodeXY f x y n) = f := by
  apply BitVec.eq_of_getLsbD_eq; intro k hk
  simp only [fieldFamily, getLsbD_encodeXY, BitVec.getLsbD_extractLsb']
  interval_cases k <;> simp

@[simp] theorem fieldX_encodeXY : fieldX (encodeXY f x y n) = x := by
  apply BitVec.eq_of_getLsbD_eq; intro k hk
  simp only [fieldX, getLsbD_encodeXY, BitVec.getLsbD_extractLsb']
  interval_cases k <;> simp

@[simp] theorem fieldY_encodeXY : fieldY (encodeXY f x y n) = y := by
  apply BitVec.eq_of_getLsbD_eq; intro k hk
  simp only [fieldY, getLsbD_encodeXY, BitVec.getLsbD_extractLsb']
  interval_cases k <;> simp

@[simp] theorem fieldN_encodeXY : fieldN (encodeXY f x y n) = n := by
  apply BitVec.eq_of_getLsbD_eq; intro k hk
  simp only [fieldN, getLsbD_encodeXY, BitVec.getLsbD_extractLsb']
  interval_cases k <;> simp

/-- Format `X` is format `XI` with the function in the low byte (R71). -/
@[simp] theorem encodeX_eq : encodeX f x nn = encodeXI f x nn := rfl

end fields

/-- The mask 0xF000 keeps the family (R74). -/
theorem and_mask_family (w : Word) : w &&& 0xF000#16 = encodeA (fieldFamily w) 0x000#12 := by
  apply BitVec.eq_of_getLsbD_eq; intro k hk
  simp only [fieldFamily, getLsbD_encodeA, BitVec.getLsbD_extractLsb', BitVec.getLsbD_and]
  interval_cases k <;> simp

/-- The mask 0xF00F keeps the family and the low nibble (R74). -/
theorem and_mask_function (w : Word) : w &&& 0xF00F#16 = encodeXY (fieldFamily w) 0x0#4 0x0#4 (fieldN w) := by
  apply BitVec.eq_of_getLsbD_eq; intro k hk
  simp only [fieldFamily, fieldN, getLsbD_encodeXY, BitVec.getLsbD_extractLsb', BitVec.getLsbD_and]
  interval_cases k <;> simp

/-- The mask 0xF0FF keeps the family and the low byte (R74). -/
theorem and_mask_lowByte (w : Word) : w &&& 0xF0FF#16 = encodeXI (fieldFamily w) 0x0#4 (fieldNN w) := by
  apply BitVec.eq_of_getLsbD_eq; intro k hk
  simp only [fieldFamily, fieldNN, getLsbD_encodeXI, BitVec.getLsbD_extractLsb', BitVec.getLsbD_and]
  interval_cases k <;> simp

/-- The mask 0xFFFF keeps the whole word (R74). -/
theorem and_mask_all (w : Word) : w &&& 0xFFFF#16 = w := BitVec.and_allOnes

/-- A word is its family, x, y and n (R78). -/
theorem word_of_nibbles (w : Word) : encodeXY (fieldFamily w) (fieldX w) (fieldY w) (fieldN w) = w := by
  apply BitVec.eq_of_getLsbD_eq; intro k hk
  simp only [getLsbD_encodeXY, fieldFamily, fieldX, fieldY, fieldN, BitVec.getLsbD_extractLsb']
  interval_cases k <;> simp

/-- A word is its family, x and nn (R78). -/
theorem word_of_x_nn (w : Word) : encodeXI (fieldFamily w) (fieldX w) (fieldNN w) = w := by
  apply BitVec.eq_of_getLsbD_eq; intro k hk
  simp only [getLsbD_encodeXI, fieldFamily, fieldX, fieldNN, BitVec.getLsbD_extractLsb']
  interval_cases k <;> simp

/-- A word is its family and nnn (R78). -/
theorem word_of_nnn (w : Word) : encodeA (fieldFamily w) (fieldNNN w) = w := by
  apply BitVec.eq_of_getLsbD_eq; intro k hk
  simp only [getLsbD_encodeA, fieldFamily, fieldNNN, BitVec.getLsbD_extractLsb']
  interval_cases k <;> simp

end Sys2Proof
end

