-- ==== Sys2Proof/Laws/State.lean ====
section
/-! SUPPORT. One lemma for each field of State under each update, true by unfolding the update once, so that no later
proof unfolds a record update; then the readers of the fields (`getV`, `readByte`, `stackAt`, `fetchWord`). -/

namespace Sys2Proof.Machine

variable (s : State)

/-! `setV` -/
@[simp] theorem State.setV_v (r : Reg) (b : Byte) : (s.setV r b).v = s.v.set r.toNat b r.isLt := rfl
@[simp] theorem State.setV_i (r : Reg) (b : Byte) : (s.setV r b).i = s.i := rfl
@[simp] theorem State.setV_pc (r : Reg) (b : Byte) : (s.setV r b).pc = s.pc := rfl
@[simp] theorem State.setV_sp (r : Reg) (b : Byte) : (s.setV r b).sp = s.sp := rfl
@[simp] theorem State.setV_stack (r : Reg) (b : Byte) : (s.setV r b).stack = s.stack := rfl
@[simp] theorem State.setV_dt (r : Reg) (b : Byte) : (s.setV r b).dt = s.dt := rfl
@[simp] theorem State.setV_st (r : Reg) (b : Byte) : (s.setV r b).st = s.st := rfl
@[simp] theorem State.setV_disp (r : Reg) (b : Byte) : (s.setV r b).disp = s.disp := rfl
@[simp] theorem State.setV_keys (r : Reg) (b : Byte) : (s.setV r b).keys = s.keys := rfl
@[simp] theorem State.setV_mem (r : Reg) (b : Byte) : (s.setV r b).mem = s.mem := rfl
@[simp] theorem State.setV_halt (r : Reg) (b : Byte) : (s.setV r b).halt = s.halt := rfl
@[simp] theorem State.setV_cause (r : Reg) (b : Byte) : (s.setV r b).cause = s.cause := rfl
@[simp] theorem State.setV_info (r : Reg) (b : Byte) : (s.setV r b).info = s.info := rfl
@[simp] theorem State.setV_out (r : Reg) (b : Byte) : (s.setV r b).out = s.out := rfl
@[simp] theorem State.setV_draws (r : Reg) (b : Byte) : (s.setV r b).draws = s.draws := rfl

/-! `setI` -/
@[simp] theorem State.setI_v (w : Word) : (s.setI w).v = s.v := rfl
@[simp] theorem State.setI_i (w : Word) : (s.setI w).i = w := rfl
@[simp] theorem State.setI_pc (w : Word) : (s.setI w).pc = s.pc := rfl
@[simp] theorem State.setI_sp (w : Word) : (s.setI w).sp = s.sp := rfl
@[simp] theorem State.setI_stack (w : Word) : (s.setI w).stack = s.stack := rfl
@[simp] theorem State.setI_dt (w : Word) : (s.setI w).dt = s.dt := rfl
@[simp] theorem State.setI_st (w : Word) : (s.setI w).st = s.st := rfl
@[simp] theorem State.setI_disp (w : Word) : (s.setI w).disp = s.disp := rfl
@[simp] theorem State.setI_keys (w : Word) : (s.setI w).keys = s.keys := rfl
@[simp] theorem State.setI_mem (w : Word) : (s.setI w).mem = s.mem := rfl
@[simp] theorem State.setI_halt (w : Word) : (s.setI w).halt = s.halt := rfl
@[simp] theorem State.setI_cause (w : Word) : (s.setI w).cause = s.cause := rfl
@[simp] theorem State.setI_info (w : Word) : (s.setI w).info = s.info := rfl
@[simp] theorem State.setI_out (w : Word) : (s.setI w).out = s.out := rfl
@[simp] theorem State.setI_draws (w : Word) : (s.setI w).draws = s.draws := rfl

/-! `setPc` -/
@[simp] theorem State.setPc_v (w : Word) : (s.setPc w).v = s.v := rfl
@[simp] theorem State.setPc_i (w : Word) : (s.setPc w).i = s.i := rfl
@[simp] theorem State.setPc_pc (w : Word) : (s.setPc w).pc = w := rfl
@[simp] theorem State.setPc_sp (w : Word) : (s.setPc w).sp = s.sp := rfl
@[simp] theorem State.setPc_stack (w : Word) : (s.setPc w).stack = s.stack := rfl
@[simp] theorem State.setPc_dt (w : Word) : (s.setPc w).dt = s.dt := rfl
@[simp] theorem State.setPc_st (w : Word) : (s.setPc w).st = s.st := rfl
@[simp] theorem State.setPc_disp (w : Word) : (s.setPc w).disp = s.disp := rfl
@[simp] theorem State.setPc_keys (w : Word) : (s.setPc w).keys = s.keys := rfl
@[simp] theorem State.setPc_mem (w : Word) : (s.setPc w).mem = s.mem := rfl
@[simp] theorem State.setPc_halt (w : Word) : (s.setPc w).halt = s.halt := rfl
@[simp] theorem State.setPc_cause (w : Word) : (s.setPc w).cause = s.cause := rfl
@[simp] theorem State.setPc_info (w : Word) : (s.setPc w).info = s.info := rfl
@[simp] theorem State.setPc_out (w : Word) : (s.setPc w).out = s.out := rfl
@[simp] theorem State.setPc_draws (w : Word) : (s.setPc w).draws = s.draws := rfl

/-! `advance` -/
@[simp] theorem State.advance_v : s.advance.v = s.v := rfl
@[simp] theorem State.advance_i : s.advance.i = s.i := rfl
@[simp] theorem State.advance_pc : s.advance.pc = s.pcNext := rfl
@[simp] theorem State.advance_sp : s.advance.sp = s.sp := rfl
@[simp] theorem State.advance_stack : s.advance.stack = s.stack := rfl
@[simp] theorem State.advance_dt : s.advance.dt = s.dt := rfl
@[simp] theorem State.advance_st : s.advance.st = s.st := rfl
@[simp] theorem State.advance_disp : s.advance.disp = s.disp := rfl
@[simp] theorem State.advance_keys : s.advance.keys = s.keys := rfl
@[simp] theorem State.advance_mem : s.advance.mem = s.mem := rfl
@[simp] theorem State.advance_halt : s.advance.halt = s.halt := rfl
@[simp] theorem State.advance_cause : s.advance.cause = s.cause := rfl
@[simp] theorem State.advance_info : s.advance.info = s.info := rfl
@[simp] theorem State.advance_out : s.advance.out = s.out := rfl
@[simp] theorem State.advance_draws : s.advance.draws = s.draws := rfl

/-! `skipIf` -/
@[simp] theorem State.skipIf_v (c : Bool) : (s.skipIf c).v = s.v := rfl
@[simp] theorem State.skipIf_i (c : Bool) : (s.skipIf c).i = s.i := rfl
@[simp] theorem State.skipIf_pc (c : Bool) : (s.skipIf c).pc = if c then s.pcNext + 2#16 else s.pcNext := rfl
@[simp] theorem State.skipIf_sp (c : Bool) : (s.skipIf c).sp = s.sp := rfl
@[simp] theorem State.skipIf_stack (c : Bool) : (s.skipIf c).stack = s.stack := rfl
@[simp] theorem State.skipIf_dt (c : Bool) : (s.skipIf c).dt = s.dt := rfl
@[simp] theorem State.skipIf_st (c : Bool) : (s.skipIf c).st = s.st := rfl
@[simp] theorem State.skipIf_disp (c : Bool) : (s.skipIf c).disp = s.disp := rfl
@[simp] theorem State.skipIf_keys (c : Bool) : (s.skipIf c).keys = s.keys := rfl
@[simp] theorem State.skipIf_mem (c : Bool) : (s.skipIf c).mem = s.mem := rfl
@[simp] theorem State.skipIf_halt (c : Bool) : (s.skipIf c).halt = s.halt := rfl
@[simp] theorem State.skipIf_cause (c : Bool) : (s.skipIf c).cause = s.cause := rfl
@[simp] theorem State.skipIf_info (c : Bool) : (s.skipIf c).info = s.info := rfl
@[simp] theorem State.skipIf_out (c : Bool) : (s.skipIf c).out = s.out := rfl
@[simp] theorem State.skipIf_draws (c : Bool) : (s.skipIf c).draws = s.draws := rfl

/-! `push` -/
@[simp] theorem State.push_v (w : Word) (h : s.sp.val < 16) : (s.push w h).v = s.v := rfl
@[simp] theorem State.push_i (w : Word) (h : s.sp.val < 16) : (s.push w h).i = s.i := rfl
@[simp] theorem State.push_pc (w : Word) (h : s.sp.val < 16) : (s.push w h).pc = s.pc := rfl
@[simp] theorem State.push_sp (w : Word) (h : s.sp.val < 16) : (s.push w h).sp = ⟨s.sp.val + 1, by omega⟩ := rfl
@[simp] theorem State.push_stack (w : Word) (h : s.sp.val < 16) : (s.push w h).stack = s.stack.set s.sp.val w h := rfl
@[simp] theorem State.push_dt (w : Word) (h : s.sp.val < 16) : (s.push w h).dt = s.dt := rfl
@[simp] theorem State.push_st (w : Word) (h : s.sp.val < 16) : (s.push w h).st = s.st := rfl
@[simp] theorem State.push_disp (w : Word) (h : s.sp.val < 16) : (s.push w h).disp = s.disp := rfl
@[simp] theorem State.push_keys (w : Word) (h : s.sp.val < 16) : (s.push w h).keys = s.keys := rfl
@[simp] theorem State.push_mem (w : Word) (h : s.sp.val < 16) : (s.push w h).mem = s.mem := rfl
@[simp] theorem State.push_halt (w : Word) (h : s.sp.val < 16) : (s.push w h).halt = s.halt := rfl
@[simp] theorem State.push_cause (w : Word) (h : s.sp.val < 16) : (s.push w h).cause = s.cause := rfl
@[simp] theorem State.push_info (w : Word) (h : s.sp.val < 16) : (s.push w h).info = s.info := rfl
@[simp] theorem State.push_out (w : Word) (h : s.sp.val < 16) : (s.push w h).out = s.out := rfl
@[simp] theorem State.push_draws (w : Word) (h : s.sp.val < 16) : (s.push w h).draws = s.draws := rfl

/-! `pop` -/
@[simp] theorem State.pop_v (h : 0 < s.sp.val) : (s.pop h).v = s.v := rfl
@[simp] theorem State.pop_i (h : 0 < s.sp.val) : (s.pop h).i = s.i := rfl
@[simp] theorem State.pop_pc (h : 0 < s.sp.val) : (s.pop h).pc = s.pc := rfl
@[simp] theorem State.pop_sp (h : 0 < s.sp.val) : (s.pop h).sp = ⟨s.sp.val - 1, by omega⟩ := rfl
@[simp] theorem State.pop_stack (h : 0 < s.sp.val) : (s.pop h).stack = s.stack := rfl
@[simp] theorem State.pop_dt (h : 0 < s.sp.val) : (s.pop h).dt = s.dt := rfl
@[simp] theorem State.pop_st (h : 0 < s.sp.val) : (s.pop h).st = s.st := rfl
@[simp] theorem State.pop_disp (h : 0 < s.sp.val) : (s.pop h).disp = s.disp := rfl
@[simp] theorem State.pop_keys (h : 0 < s.sp.val) : (s.pop h).keys = s.keys := rfl
@[simp] theorem State.pop_mem (h : 0 < s.sp.val) : (s.pop h).mem = s.mem := rfl
@[simp] theorem State.pop_halt (h : 0 < s.sp.val) : (s.pop h).halt = s.halt := rfl
@[simp] theorem State.pop_cause (h : 0 < s.sp.val) : (s.pop h).cause = s.cause := rfl
@[simp] theorem State.pop_info (h : 0 < s.sp.val) : (s.pop h).info = s.info := rfl
@[simp] theorem State.pop_out (h : 0 < s.sp.val) : (s.pop h).out = s.out := rfl
@[simp] theorem State.pop_draws (h : 0 < s.sp.val) : (s.pop h).draws = s.draws := rfl

/-! `writeByte` -/
@[simp] theorem State.writeByte_v (a : Nat) (b : Byte) : (s.writeByte a b).v = s.v := rfl
@[simp] theorem State.writeByte_i (a : Nat) (b : Byte) : (s.writeByte a b).i = s.i := rfl
@[simp] theorem State.writeByte_pc (a : Nat) (b : Byte) : (s.writeByte a b).pc = s.pc := rfl
@[simp] theorem State.writeByte_sp (a : Nat) (b : Byte) : (s.writeByte a b).sp = s.sp := rfl
@[simp] theorem State.writeByte_stack (a : Nat) (b : Byte) : (s.writeByte a b).stack = s.stack := rfl
@[simp] theorem State.writeByte_dt (a : Nat) (b : Byte) : (s.writeByte a b).dt = s.dt := rfl
@[simp] theorem State.writeByte_st (a : Nat) (b : Byte) : (s.writeByte a b).st = s.st := rfl
@[simp] theorem State.writeByte_disp (a : Nat) (b : Byte) : (s.writeByte a b).disp = s.disp := rfl
@[simp] theorem State.writeByte_keys (a : Nat) (b : Byte) : (s.writeByte a b).keys = s.keys := rfl
@[simp] theorem State.writeByte_mem (a : Nat) (b : Byte) : (s.writeByte a b).mem = s.mem.write a b := rfl
@[simp] theorem State.writeByte_halt (a : Nat) (b : Byte) : (s.writeByte a b).halt = s.halt := rfl
@[simp] theorem State.writeByte_cause (a : Nat) (b : Byte) : (s.writeByte a b).cause = s.cause := rfl
@[simp] theorem State.writeByte_info (a : Nat) (b : Byte) : (s.writeByte a b).info = s.info := rfl
@[simp] theorem State.writeByte_out (a : Nat) (b : Byte) : (s.writeByte a b).out = s.out := rfl
@[simp] theorem State.writeByte_draws (a : Nat) (b : Byte) : (s.writeByte a b).draws = s.draws := rfl

/-! `faulted` -/
@[simp] theorem State.faulted_v (c : FaultCause) (d : Nat) : (s.faulted c d).v = s.v := rfl
@[simp] theorem State.faulted_i (c : FaultCause) (d : Nat) : (s.faulted c d).i = s.i := rfl
@[simp] theorem State.faulted_pc (c : FaultCause) (d : Nat) : (s.faulted c d).pc = s.pc := rfl
@[simp] theorem State.faulted_sp (c : FaultCause) (d : Nat) : (s.faulted c d).sp = s.sp := rfl
@[simp] theorem State.faulted_stack (c : FaultCause) (d : Nat) : (s.faulted c d).stack = s.stack := rfl
@[simp] theorem State.faulted_dt (c : FaultCause) (d : Nat) : (s.faulted c d).dt = s.dt := rfl
@[simp] theorem State.faulted_st (c : FaultCause) (d : Nat) : (s.faulted c d).st = s.st := rfl
@[simp] theorem State.faulted_disp (c : FaultCause) (d : Nat) : (s.faulted c d).disp = s.disp := rfl
@[simp] theorem State.faulted_keys (c : FaultCause) (d : Nat) : (s.faulted c d).keys = s.keys := rfl
@[simp] theorem State.faulted_mem (c : FaultCause) (d : Nat) : (s.faulted c d).mem = s.mem := rfl
@[simp] theorem State.faulted_halt (c : FaultCause) (d : Nat) : (s.faulted c d).halt = true := rfl
@[simp] theorem State.faulted_cause (c : FaultCause) (d : Nat) : (s.faulted c d).cause = causeCode c := rfl
@[simp] theorem State.faulted_info (c : FaultCause) (d : Nat) : (s.faulted c d).info = s.pc ++ BitVec.ofNat 16 d := rfl
@[simp] theorem State.faulted_out (c : FaultCause) (d : Nat) : (s.faulted c d).out = s.out := rfl
@[simp] theorem State.faulted_draws (c : FaultCause) (d : Nat) : (s.faulted c d).draws = s.draws := rfl

/-! `clearOut` -/
@[simp] theorem State.clearOut_v : s.clearOut.v = s.v := rfl
@[simp] theorem State.clearOut_i : s.clearOut.i = s.i := rfl
@[simp] theorem State.clearOut_pc : s.clearOut.pc = s.pc := rfl
@[simp] theorem State.clearOut_sp : s.clearOut.sp = s.sp := rfl
@[simp] theorem State.clearOut_stack : s.clearOut.stack = s.stack := rfl
@[simp] theorem State.clearOut_dt : s.clearOut.dt = s.dt := rfl
@[simp] theorem State.clearOut_st : s.clearOut.st = s.st := rfl
@[simp] theorem State.clearOut_disp : s.clearOut.disp = s.disp := rfl
@[simp] theorem State.clearOut_keys : s.clearOut.keys = s.keys := rfl
@[simp] theorem State.clearOut_mem : s.clearOut.mem = s.mem := rfl
@[simp] theorem State.clearOut_halt : s.clearOut.halt = s.halt := rfl
@[simp] theorem State.clearOut_cause : s.clearOut.cause = s.cause := rfl
@[simp] theorem State.clearOut_info : s.clearOut.info = s.info := rfl
@[simp] theorem State.clearOut_out : s.clearOut.out = TickOut.quiet := rfl
@[simp] theorem State.clearOut_draws : s.clearOut.draws = s.draws := rfl

/-! `timerPhase` -/
@[simp] theorem State.timerPhase_v : (timerPhase s).v = s.v := rfl
@[simp] theorem State.timerPhase_i : (timerPhase s).i = s.i := rfl
@[simp] theorem State.timerPhase_pc : (timerPhase s).pc = s.pc := rfl
@[simp] theorem State.timerPhase_sp : (timerPhase s).sp = s.sp := rfl
@[simp] theorem State.timerPhase_stack : (timerPhase s).stack = s.stack := rfl
@[simp] theorem State.timerPhase_dt : (timerPhase s).dt = countDown s.dt := rfl
@[simp] theorem State.timerPhase_st : (timerPhase s).st = countDown s.st := rfl
@[simp] theorem State.timerPhase_disp : (timerPhase s).disp = s.disp := rfl
@[simp] theorem State.timerPhase_keys : (timerPhase s).keys = s.keys := rfl
@[simp] theorem State.timerPhase_mem : (timerPhase s).mem = s.mem := rfl
@[simp] theorem State.timerPhase_halt : (timerPhase s).halt = s.halt := rfl
@[simp] theorem State.timerPhase_cause : (timerPhase s).cause = s.cause := rfl
@[simp] theorem State.timerPhase_info : (timerPhase s).info = s.info := rfl
@[simp] theorem State.timerPhase_out : (timerPhase s).out = { s.out with beep := s.st == 0x01#8 } := rfl
@[simp] theorem State.timerPhase_draws : (timerPhase s).draws = s.draws := rfl

/-! `resultThenFlag` -/
@[simp] theorem State.resultThenFlag_i (x : Reg) (b : Byte) (f : Bool) : (s.resultThenFlag x b f).i = s.i := rfl
@[simp] theorem State.resultThenFlag_pc (x : Reg) (b : Byte) (f : Bool) : (s.resultThenFlag x b f).pc = s.pc := rfl
@[simp] theorem State.resultThenFlag_sp (x : Reg) (b : Byte) (f : Bool) : (s.resultThenFlag x b f).sp = s.sp := rfl
@[simp] theorem State.resultThenFlag_stack (x : Reg) (b : Byte) (f : Bool) : (s.resultThenFlag x b f).stack = s.stack := rfl
@[simp] theorem State.resultThenFlag_dt (x : Reg) (b : Byte) (f : Bool) : (s.resultThenFlag x b f).dt = s.dt := rfl
@[simp] theorem State.resultThenFlag_st (x : Reg) (b : Byte) (f : Bool) : (s.resultThenFlag x b f).st = s.st := rfl
@[simp] theorem State.resultThenFlag_disp (x : Reg) (b : Byte) (f : Bool) : (s.resultThenFlag x b f).disp = s.disp := rfl
@[simp] theorem State.resultThenFlag_keys (x : Reg) (b : Byte) (f : Bool) : (s.resultThenFlag x b f).keys = s.keys := rfl
@[simp] theorem State.resultThenFlag_mem (x : Reg) (b : Byte) (f : Bool) : (s.resultThenFlag x b f).mem = s.mem := rfl
@[simp] theorem State.resultThenFlag_halt (x : Reg) (b : Byte) (f : Bool) : (s.resultThenFlag x b f).halt = s.halt := rfl
@[simp] theorem State.resultThenFlag_cause (x : Reg) (b : Byte) (f : Bool) : (s.resultThenFlag x b f).cause = s.cause := rfl
@[simp] theorem State.resultThenFlag_info (x : Reg) (b : Byte) (f : Bool) : (s.resultThenFlag x b f).info = s.info := rfl
@[simp] theorem State.resultThenFlag_out (x : Reg) (b : Byte) (f : Bool) : (s.resultThenFlag x b f).out = s.out := rfl
@[simp] theorem State.resultThenFlag_draws (x : Reg) (b : Byte) (f : Bool) : (s.resultThenFlag x b f).draws = s.draws := rfl

/-! `flagThenResult` -/
@[simp] theorem State.flagThenResult_i (x : Reg) (f : Bool) (b : Byte) : (s.flagThenResult x f b).i = s.i := rfl
@[simp] theorem State.flagThenResult_pc (x : Reg) (f : Bool) (b : Byte) : (s.flagThenResult x f b).pc = s.pc := rfl
@[simp] theorem State.flagThenResult_sp (x : Reg) (f : Bool) (b : Byte) : (s.flagThenResult x f b).sp = s.sp := rfl
@[simp] theorem State.flagThenResult_stack (x : Reg) (f : Bool) (b : Byte) : (s.flagThenResult x f b).stack = s.stack := rfl
@[simp] theorem State.flagThenResult_dt (x : Reg) (f : Bool) (b : Byte) : (s.flagThenResult x f b).dt = s.dt := rfl
@[simp] theorem State.flagThenResult_st (x : Reg) (f : Bool) (b : Byte) : (s.flagThenResult x f b).st = s.st := rfl
@[simp] theorem State.flagThenResult_disp (x : Reg) (f : Bool) (b : Byte) : (s.flagThenResult x f b).disp = s.disp := rfl
@[simp] theorem State.flagThenResult_keys (x : Reg) (f : Bool) (b : Byte) : (s.flagThenResult x f b).keys = s.keys := rfl
@[simp] theorem State.flagThenResult_mem (x : Reg) (f : Bool) (b : Byte) : (s.flagThenResult x f b).mem = s.mem := rfl
@[simp] theorem State.flagThenResult_halt (x : Reg) (f : Bool) (b : Byte) : (s.flagThenResult x f b).halt = s.halt := rfl
@[simp] theorem State.flagThenResult_cause (x : Reg) (f : Bool) (b : Byte) : (s.flagThenResult x f b).cause = s.cause := rfl
@[simp] theorem State.flagThenResult_info (x : Reg) (f : Bool) (b : Byte) : (s.flagThenResult x f b).info = s.info := rfl
@[simp] theorem State.flagThenResult_out (x : Reg) (f : Bool) (b : Byte) : (s.flagThenResult x f b).out = s.out := rfl
@[simp] theorem State.flagThenResult_draws (x : Reg) (f : Bool) (b : Byte) : (s.flagThenResult x f b).draws = s.draws := rfl

/-! `storeWord` -/
@[simp] theorem State.storeWord_v (a : Nat) (w : Word) : (s.storeWord a w).v = s.v := rfl
@[simp] theorem State.storeWord_i (a : Nat) (w : Word) : (s.storeWord a w).i = s.i := rfl
@[simp] theorem State.storeWord_pc (a : Nat) (w : Word) : (s.storeWord a w).pc = s.pc := rfl
@[simp] theorem State.storeWord_sp (a : Nat) (w : Word) : (s.storeWord a w).sp = s.sp := rfl
@[simp] theorem State.storeWord_stack (a : Nat) (w : Word) : (s.storeWord a w).stack = s.stack := rfl
@[simp] theorem State.storeWord_dt (a : Nat) (w : Word) : (s.storeWord a w).dt = s.dt := rfl
@[simp] theorem State.storeWord_st (a : Nat) (w : Word) : (s.storeWord a w).st = s.st := rfl
@[simp] theorem State.storeWord_disp (a : Nat) (w : Word) : (s.storeWord a w).disp = s.disp := rfl
@[simp] theorem State.storeWord_keys (a : Nat) (w : Word) : (s.storeWord a w).keys = s.keys := rfl
@[simp] theorem State.storeWord_halt (a : Nat) (w : Word) : (s.storeWord a w).halt = s.halt := rfl
@[simp] theorem State.storeWord_cause (a : Nat) (w : Word) : (s.storeWord a w).cause = s.cause := rfl
@[simp] theorem State.storeWord_info (a : Nat) (w : Word) : (s.storeWord a w).info = s.info := rfl
@[simp] theorem State.storeWord_out (a : Nat) (w : Word) : (s.storeWord a w).out = s.out := rfl
@[simp] theorem State.storeWord_draws (a : Nat) (w : Word) : (s.storeWord a w).draws = s.draws := rfl

/-! `rndWith` -/
@[simp] theorem State.rndWith_i (k : Byte) (x : Reg) (nn : Byte) : (rndWith k x nn s).i = s.i := rfl
@[simp] theorem State.rndWith_pc (k : Byte) (x : Reg) (nn : Byte) : (rndWith k x nn s).pc = s.pcNext := rfl
@[simp] theorem State.rndWith_sp (k : Byte) (x : Reg) (nn : Byte) : (rndWith k x nn s).sp = s.sp := rfl
@[simp] theorem State.rndWith_stack (k : Byte) (x : Reg) (nn : Byte) : (rndWith k x nn s).stack = s.stack := rfl
@[simp] theorem State.rndWith_dt (k : Byte) (x : Reg) (nn : Byte) : (rndWith k x nn s).dt = s.dt := rfl
@[simp] theorem State.rndWith_st (k : Byte) (x : Reg) (nn : Byte) : (rndWith k x nn s).st = s.st := rfl
@[simp] theorem State.rndWith_disp (k : Byte) (x : Reg) (nn : Byte) : (rndWith k x nn s).disp = s.disp := rfl
@[simp] theorem State.rndWith_keys (k : Byte) (x : Reg) (nn : Byte) : (rndWith k x nn s).keys = s.keys := rfl
@[simp] theorem State.rndWith_mem (k : Byte) (x : Reg) (nn : Byte) : (rndWith k x nn s).mem = s.mem := rfl
@[simp] theorem State.rndWith_halt (k : Byte) (x : Reg) (nn : Byte) : (rndWith k x nn s).halt = s.halt := rfl
@[simp] theorem State.rndWith_cause (k : Byte) (x : Reg) (nn : Byte) : (rndWith k x nn s).cause = s.cause := rfl
@[simp] theorem State.rndWith_info (k : Byte) (x : Reg) (nn : Byte) : (rndWith k x nn s).info = s.info := rfl
@[simp] theorem State.rndWith_out (k : Byte) (x : Reg) (nn : Byte) : (rndWith k x nn s).out = s.out := rfl
@[simp] theorem State.rndWith_draws (k : Byte) (x : Reg) (nn : Byte) : (rndWith k x nn s).draws = s.draws := rfl

/-! `keyDown` -/
@[simp] theorem State.keyDown_v (k : Fin 16) : (keyDown k s).v = s.v := rfl
@[simp] theorem State.keyDown_i (k : Fin 16) : (keyDown k s).i = s.i := rfl
@[simp] theorem State.keyDown_pc (k : Fin 16) : (keyDown k s).pc = s.pc := rfl
@[simp] theorem State.keyDown_sp (k : Fin 16) : (keyDown k s).sp = s.sp := rfl
@[simp] theorem State.keyDown_stack (k : Fin 16) : (keyDown k s).stack = s.stack := rfl
@[simp] theorem State.keyDown_dt (k : Fin 16) : (keyDown k s).dt = s.dt := rfl
@[simp] theorem State.keyDown_st (k : Fin 16) : (keyDown k s).st = s.st := rfl
@[simp] theorem State.keyDown_disp (k : Fin 16) : (keyDown k s).disp = s.disp := rfl
@[simp] theorem State.keyDown_mem (k : Fin 16) : (keyDown k s).mem = s.mem := rfl
@[simp] theorem State.keyDown_halt (k : Fin 16) : (keyDown k s).halt = s.halt := rfl
@[simp] theorem State.keyDown_cause (k : Fin 16) : (keyDown k s).cause = s.cause := rfl
@[simp] theorem State.keyDown_info (k : Fin 16) : (keyDown k s).info = s.info := rfl
@[simp] theorem State.keyDown_out (k : Fin 16) : (keyDown k s).out = s.out := rfl
@[simp] theorem State.keyDown_draws (k : Fin 16) : (keyDown k s).draws = s.draws := rfl

/-! `keyUp` -/
@[simp] theorem State.keyUp_v (k : Fin 16) : (keyUp k s).v = s.v := rfl
@[simp] theorem State.keyUp_i (k : Fin 16) : (keyUp k s).i = s.i := rfl
@[simp] theorem State.keyUp_pc (k : Fin 16) : (keyUp k s).pc = s.pc := rfl
@[simp] theorem State.keyUp_sp (k : Fin 16) : (keyUp k s).sp = s.sp := rfl
@[simp] theorem State.keyUp_stack (k : Fin 16) : (keyUp k s).stack = s.stack := rfl
@[simp] theorem State.keyUp_dt (k : Fin 16) : (keyUp k s).dt = s.dt := rfl
@[simp] theorem State.keyUp_st (k : Fin 16) : (keyUp k s).st = s.st := rfl
@[simp] theorem State.keyUp_disp (k : Fin 16) : (keyUp k s).disp = s.disp := rfl
@[simp] theorem State.keyUp_mem (k : Fin 16) : (keyUp k s).mem = s.mem := rfl
@[simp] theorem State.keyUp_halt (k : Fin 16) : (keyUp k s).halt = s.halt := rfl
@[simp] theorem State.keyUp_cause (k : Fin 16) : (keyUp k s).cause = s.cause := rfl
@[simp] theorem State.keyUp_info (k : Fin 16) : (keyUp k s).info = s.info := rfl
@[simp] theorem State.keyUp_out (k : Fin 16) : (keyUp k s).out = s.out := rfl
@[simp] theorem State.keyUp_draws (k : Fin 16) : (keyUp k s).draws = s.draws := rfl

/-! `loaded` -/
section loaded
variable (rest : Memory) (font program : List Byte) (draws : Nat)

@[simp] theorem State.loaded_v : (State.loaded rest font program draws).v = State.reset.v := rfl
@[simp] theorem State.loaded_i : (State.loaded rest font program draws).i = State.reset.i := rfl
@[simp] theorem State.loaded_pc : (State.loaded rest font program draws).pc = State.reset.pc := rfl
@[simp] theorem State.loaded_sp : (State.loaded rest font program draws).sp = State.reset.sp := rfl
@[simp] theorem State.loaded_stack : (State.loaded rest font program draws).stack = State.reset.stack := rfl
@[simp] theorem State.loaded_dt : (State.loaded rest font program draws).dt = State.reset.dt := rfl
@[simp] theorem State.loaded_st : (State.loaded rest font program draws).st = State.reset.st := rfl
@[simp] theorem State.loaded_disp : (State.loaded rest font program draws).disp = State.reset.disp := rfl
@[simp] theorem State.loaded_keys : (State.loaded rest font program draws).keys = State.reset.keys := rfl
@[simp] theorem State.loaded_halt : (State.loaded rest font program draws).halt = State.reset.halt := rfl
@[simp] theorem State.loaded_cause : (State.loaded rest font program draws).cause = State.reset.cause := rfl
@[simp] theorem State.loaded_info : (State.loaded rest font program draws).info = State.reset.info := rfl
@[simp] theorem State.loaded_out : (State.loaded rest font program draws).out = State.reset.out := rfl
@[simp] theorem State.loaded_mem : (State.loaded rest font program draws).mem = loadMemory rest font program := by
  simp only [State.loaded]
@[simp] theorem State.loaded_draws : (State.loaded rest font program draws).draws = draws := rfl
@[simp] theorem State.readByte_loaded (a : Nat) :
    (State.loaded rest font program draws).readByte a = (loadMemory rest font program).read a := by
  simp only [State.readByte, State.loaded_mem]

end loaded

/-! The readers of an updated state -/
@[simp] theorem State.getV_setI (w : Word) (q : Reg) : (s.setI w).getV q = s.getV q := rfl
@[simp] theorem State.getV_setPc (w : Word) (q : Reg) : (s.setPc w).getV q = s.getV q := rfl
@[simp] theorem State.getV_advance (q : Reg) : s.advance.getV q = s.getV q := rfl
@[simp] theorem State.getV_skipIf (c : Bool) (q : Reg) : (s.skipIf c).getV q = s.getV q := rfl
@[simp] theorem State.getV_push (w : Word) (h : s.sp.val < 16) (q : Reg) : (s.push w h).getV q = s.getV q := rfl
@[simp] theorem State.getV_pop (h : 0 < s.sp.val) (q : Reg) : (s.pop h).getV q = s.getV q := rfl
@[simp] theorem State.getV_writeByte (a : Nat) (b : Byte) (q : Reg) : (s.writeByte a b).getV q = s.getV q := rfl
@[simp] theorem State.getV_faulted (c : FaultCause) (d : Nat) (q : Reg) : (s.faulted c d).getV q = s.getV q := rfl
@[simp] theorem State.getV_clearOut (q : Reg) : s.clearOut.getV q = s.getV q := rfl
@[simp] theorem State.getV_timerPhase (q : Reg) : (timerPhase s).getV q = s.getV q := rfl
@[simp] theorem State.getV_storeWord (a : Nat) (w : Word) (q : Reg) : (s.storeWord a w).getV q = s.getV q := rfl
@[simp] theorem State.getV_keyDown (k : Fin 16) (q : Reg) : (keyDown k s).getV q = s.getV q := rfl
@[simp] theorem State.getV_keyUp (k : Fin 16) (q : Reg) : (keyUp k s).getV q = s.getV q := rfl

@[simp] theorem State.readByte_setV (r : Reg) (b : Byte) (q : Nat) : (s.setV r b).readByte q = s.readByte q := rfl
@[simp] theorem State.readByte_setI (w : Word) (q : Nat) : (s.setI w).readByte q = s.readByte q := rfl
@[simp] theorem State.readByte_setPc (w : Word) (q : Nat) : (s.setPc w).readByte q = s.readByte q := rfl
@[simp] theorem State.readByte_advance (q : Nat) : s.advance.readByte q = s.readByte q := rfl
@[simp] theorem State.readByte_skipIf (c : Bool) (q : Nat) : (s.skipIf c).readByte q = s.readByte q := rfl
@[simp] theorem State.readByte_push (w : Word) (h : s.sp.val < 16) (q : Nat) : (s.push w h).readByte q = s.readByte q := rfl
@[simp] theorem State.readByte_pop (h : 0 < s.sp.val) (q : Nat) : (s.pop h).readByte q = s.readByte q := rfl
@[simp] theorem State.readByte_faulted (c : FaultCause) (d : Nat) (q : Nat) : (s.faulted c d).readByte q = s.readByte q := rfl
@[simp] theorem State.readByte_clearOut (q : Nat) : s.clearOut.readByte q = s.readByte q := rfl
@[simp] theorem State.readByte_timerPhase (q : Nat) : (timerPhase s).readByte q = s.readByte q := rfl
@[simp] theorem State.readByte_resultThenFlag (x : Reg) (b : Byte) (f : Bool) (q : Nat) : (s.resultThenFlag x b f).readByte q = s.readByte q := rfl
@[simp] theorem State.readByte_flagThenResult (x : Reg) (f : Bool) (b : Byte) (q : Nat) : (s.flagThenResult x f b).readByte q = s.readByte q := rfl
@[simp] theorem State.readByte_rndWith (k : Byte) (x : Reg) (nn : Byte) (q : Nat) : (rndWith k x nn s).readByte q = s.readByte q := rfl
@[simp] theorem State.readByte_keyDown (k : Fin 16) (q : Nat) : (keyDown k s).readByte q = s.readByte q := rfl
@[simp] theorem State.readByte_keyUp (k : Fin 16) (q : Nat) : (keyUp k s).readByte q = s.readByte q := rfl

@[simp] theorem State.stackAt_setV (r : Reg) (b : Byte) (q : Fin 16) : (s.setV r b).stackAt q = s.stackAt q := rfl
@[simp] theorem State.stackAt_setI (w : Word) (q : Fin 16) : (s.setI w).stackAt q = s.stackAt q := rfl
@[simp] theorem State.stackAt_setPc (w : Word) (q : Fin 16) : (s.setPc w).stackAt q = s.stackAt q := rfl
@[simp] theorem State.stackAt_advance (q : Fin 16) : s.advance.stackAt q = s.stackAt q := rfl
@[simp] theorem State.stackAt_skipIf (c : Bool) (q : Fin 16) : (s.skipIf c).stackAt q = s.stackAt q := rfl
@[simp] theorem State.stackAt_pop (h : 0 < s.sp.val) (q : Fin 16) : (s.pop h).stackAt q = s.stackAt q := rfl
@[simp] theorem State.stackAt_writeByte (a : Nat) (b : Byte) (q : Fin 16) : (s.writeByte a b).stackAt q = s.stackAt q := rfl
@[simp] theorem State.stackAt_faulted (c : FaultCause) (d : Nat) (q : Fin 16) : (s.faulted c d).stackAt q = s.stackAt q := rfl
@[simp] theorem State.stackAt_clearOut (q : Fin 16) : s.clearOut.stackAt q = s.stackAt q := rfl
@[simp] theorem State.stackAt_timerPhase (q : Fin 16) : (timerPhase s).stackAt q = s.stackAt q := rfl
@[simp] theorem State.stackAt_resultThenFlag (x : Reg) (b : Byte) (f : Bool) (q : Fin 16) : (s.resultThenFlag x b f).stackAt q = s.stackAt q := rfl
@[simp] theorem State.stackAt_flagThenResult (x : Reg) (f : Bool) (b : Byte) (q : Fin 16) : (s.flagThenResult x f b).stackAt q = s.stackAt q := rfl
@[simp] theorem State.stackAt_storeWord (a : Nat) (w : Word) (q : Fin 16) : (s.storeWord a w).stackAt q = s.stackAt q := rfl
@[simp] theorem State.stackAt_rndWith (k : Byte) (x : Reg) (nn : Byte) (q : Fin 16) : (rndWith k x nn s).stackAt q = s.stackAt q := rfl
@[simp] theorem State.stackAt_keyDown (k : Fin 16) (q : Fin 16) : (keyDown k s).stackAt q = s.stackAt q := rfl
@[simp] theorem State.stackAt_keyUp (k : Fin 16) (q : Fin 16) : (keyUp k s).stackAt q = s.stackAt q := rfl

@[simp] theorem State.fetchWord_setV (r : Reg) (b : Byte) : (s.setV r b).fetchWord = s.fetchWord := rfl
@[simp] theorem State.fetchWord_setI (w : Word) : (s.setI w).fetchWord = s.fetchWord := rfl
@[simp] theorem State.fetchWord_push (w : Word) (h : s.sp.val < 16) : (s.push w h).fetchWord = s.fetchWord := rfl
@[simp] theorem State.fetchWord_pop (h : 0 < s.sp.val) : (s.pop h).fetchWord = s.fetchWord := rfl
@[simp] theorem State.fetchWord_faulted (c : FaultCause) (d : Nat) : (s.faulted c d).fetchWord = s.fetchWord := rfl
@[simp] theorem State.fetchWord_clearOut : s.clearOut.fetchWord = s.fetchWord := rfl
@[simp] theorem State.fetchWord_timerPhase : (timerPhase s).fetchWord = s.fetchWord := rfl
@[simp] theorem State.fetchWord_resultThenFlag (x : Reg) (b : Byte) (f : Bool) : (s.resultThenFlag x b f).fetchWord = s.fetchWord := rfl
@[simp] theorem State.fetchWord_flagThenResult (x : Reg) (f : Bool) (b : Byte) : (s.flagThenResult x f b).fetchWord = s.fetchWord := rfl
@[simp] theorem State.fetchWord_keyDown (k : Fin 16) : (keyDown k s).fetchWord = s.fetchWord := rfl
@[simp] theorem State.fetchWord_keyUp (k : Fin 16) : (keyUp k s).fetchWord = s.fetchWord := rfl

@[simp] theorem State.pcNext_setV (r : Reg) (b : Byte) : (s.setV r b).pcNext = s.pcNext := rfl
@[simp] theorem State.pcNext_setI (w : Word) : (s.setI w).pcNext = s.pcNext := rfl
@[simp] theorem State.pcNext_push (w : Word) (h : s.sp.val < 16) : (s.push w h).pcNext = s.pcNext := rfl
@[simp] theorem State.pcNext_pop (h : 0 < s.sp.val) : (s.pop h).pcNext = s.pcNext := rfl
@[simp] theorem State.pcNext_writeByte (a : Nat) (b : Byte) : (s.writeByte a b).pcNext = s.pcNext := rfl
@[simp] theorem State.pcNext_faulted (c : FaultCause) (d : Nat) : (s.faulted c d).pcNext = s.pcNext := rfl
@[simp] theorem State.pcNext_clearOut : s.clearOut.pcNext = s.pcNext := rfl
@[simp] theorem State.pcNext_timerPhase : (timerPhase s).pcNext = s.pcNext := rfl
@[simp] theorem State.pcNext_resultThenFlag (x : Reg) (b : Byte) (f : Bool) : (s.resultThenFlag x b f).pcNext = s.pcNext := rfl
@[simp] theorem State.pcNext_flagThenResult (x : Reg) (f : Bool) (b : Byte) : (s.flagThenResult x f b).pcNext = s.pcNext := rfl
@[simp] theorem State.pcNext_storeWord (a : Nat) (w : Word) : (s.storeWord a w).pcNext = s.pcNext := rfl
@[simp] theorem State.pcNext_keyDown (k : Fin 16) : (keyDown k s).pcNext = s.pcNext := rfl
@[simp] theorem State.pcNext_keyUp (k : Fin 16) : (keyUp k s).pcNext = s.pcNext := rfl

@[simp] theorem State.keyPressed_setV (r : Reg) (b : Byte) (q : Nat) : (s.setV r b).keyPressed q = s.keyPressed q := rfl
@[simp] theorem State.keyPressed_setI (w : Word) (q : Nat) : (s.setI w).keyPressed q = s.keyPressed q := rfl
@[simp] theorem State.keyPressed_setPc (w : Word) (q : Nat) : (s.setPc w).keyPressed q = s.keyPressed q := rfl
@[simp] theorem State.keyPressed_advance (q : Nat) : s.advance.keyPressed q = s.keyPressed q := rfl
@[simp] theorem State.keyPressed_skipIf (c : Bool) (q : Nat) : (s.skipIf c).keyPressed q = s.keyPressed q := rfl
@[simp] theorem State.keyPressed_push (w : Word) (h : s.sp.val < 16) (q : Nat) : (s.push w h).keyPressed q = s.keyPressed q := rfl
@[simp] theorem State.keyPressed_pop (h : 0 < s.sp.val) (q : Nat) : (s.pop h).keyPressed q = s.keyPressed q := rfl
@[simp] theorem State.keyPressed_writeByte (a : Nat) (b : Byte) (q : Nat) : (s.writeByte a b).keyPressed q = s.keyPressed q := rfl
@[simp] theorem State.keyPressed_faulted (c : FaultCause) (d : Nat) (q : Nat) : (s.faulted c d).keyPressed q = s.keyPressed q := rfl
@[simp] theorem State.keyPressed_clearOut (q : Nat) : s.clearOut.keyPressed q = s.keyPressed q := rfl
@[simp] theorem State.keyPressed_timerPhase (q : Nat) : (timerPhase s).keyPressed q = s.keyPressed q := rfl
@[simp] theorem State.keyPressed_resultThenFlag (x : Reg) (b : Byte) (f : Bool) (q : Nat) : (s.resultThenFlag x b f).keyPressed q = s.keyPressed q := rfl
@[simp] theorem State.keyPressed_flagThenResult (x : Reg) (f : Bool) (b : Byte) (q : Nat) : (s.flagThenResult x f b).keyPressed q = s.keyPressed q := rfl
@[simp] theorem State.keyPressed_storeWord (a : Nat) (w : Word) (q : Nat) : (s.storeWord a w).keyPressed q = s.keyPressed q := rfl
@[simp] theorem State.keyPressed_rndWith (k : Byte) (x : Reg) (nn : Byte) (q : Nat) : (rndWith k x nn s).keyPressed q = s.keyPressed q := rfl

/-! The readers of the field an update writes -/

@[simp] theorem State.getV_setV_same (r : Reg) (b : Byte) : (s.setV r b).getV r = b := by
  simp [State.getV, State.setV]

theorem State.getV_setV_ne {q r : Reg} (h : q ≠ r) (b : Byte) : (s.setV r b).getV q = s.getV q := by
  have hn : r.toNat ≠ q.toNat := fun e => h (BitVec.eq_of_toNat_eq e.symm)
  simp [State.getV, State.setV, Vector.getElem_set_ne _ _ hn]

theorem State.getV_setV (r q : Reg) (b : Byte) : (s.setV r b).getV q = if q = r then b else s.getV q := by
  by_cases h : q = r
  · subst h; simp
  · simp [h, State.getV_setV_ne s h]

theorem State.stackAt_push (w : Word) (h : s.sp.val < 16) (k : Fin 16) :
    (s.push w h).stackAt k = if k.val = s.sp.val then w else s.stackAt k := by
  by_cases hk : k.val = s.sp.val
  · simp [State.stackAt, State.push, hk]
  · simp [State.stackAt, State.push, hk, Vector.getElem_set_ne _ _ (fun e => hk e.symm)]

theorem State.getV_resultThenFlag (x q : Reg) (b : Byte) (f : Bool) :
    (s.resultThenFlag x b f).getV q = if q = vf then flagByte f else if q = x then b else s.getV q := by
  simp only [State.resultThenFlag, State.getV_setV]

theorem State.getV_flagThenResult (x q : Reg) (f : Bool) (b : Byte) :
    (s.flagThenResult x f b).getV q = if q = x then b else if q = vf then flagByte f else s.getV q := by
  simp only [State.flagThenResult, State.getV_setV]

theorem State.getV_rndWith (k : Byte) (x q : Reg) (nn : Byte) :
    (rndWith k x nn s).getV q = if q = x then k &&& nn else s.getV q := by
  simp [rndWith, State.getV_setV]

/-- Two states with the same registers by number have the same register file. -/
theorem State.v_ext {s t : State} (h : ∀ r, t.getV r = s.getV r) : t.v = s.v := by
  apply Vector.ext
  intro k hk
  have := h (BitVec.ofNat 4 k)
  simpa [State.getV, Nat.mod_eq_of_lt hk] using this

/-- Two states with the same stack entries by number have the same stack. -/
theorem State.stack_ext {s t : State} (h : ∀ k, t.stackAt k = s.stackAt k) : t.stack = s.stack := by
  apply Vector.ext
  intro k hk
  exact h ⟨k, hk⟩

end Sys2Proof.Machine
end

