-- ==== Sys2Proof/Laws/Memory.lean ====
section
/-! SUPPORT. What reading and writing memory do (spec 20_memory.md R52, R53), and that every memory operation keeps the
canonical form. -/

namespace Sys2Proof.Machine

theorem Memory.read_cons (a k : Nat) (b : Byte) (m : Memory)
    (hm : ∀ c ∈ m, a < c.1) : (Memory.cons a b m).read k = if k = a then b else m.read k := by
  unfold Memory.cons
  by_cases hb : b = Config.unlistedByte
  · simp only [hb, if_true]
    by_cases hk : k = a
    · subst hk
      simp only [if_true]
      induction m with
      | nil => rfl
      | cons c m ih =>
        have hc : k < c.1 := hm c (by simp)
        rw [Memory.read, if_neg (by omega)]
        exact ih (fun d hd => hm d (by simp [hd]))
    · simp [hk]
  · simp only [hb, if_false, Memory.read]
    by_cases hk : k = a
    · simp [hk]
    · rw [if_neg (fun e : a = k => hk e.symm), if_neg hk]

/-- Reading what was put: the new byte at its address, and every other byte as before. -/
theorem Memory.read_put (m : Memory) (a k : Nat) (b : Byte) (hm : m.Pairwise (fun c d => c.1 < d.1)) :
    (m.put a b).read k = if k = a then b else m.read k := by
  induction m with
  | nil => exact Memory.read_cons a k b [] (by simp)
  | cons c m ih =>
    obtain ⟨hc, hm'⟩ := List.pairwise_cons.mp hm
    unfold Memory.put
    split
    · rename_i hlt
      refine Memory.read_cons a k b _ fun d hd => ?_
      rcases List.mem_cons.mp hd with rfl | hd
      · exact hlt
      · exact hlt.trans (hc d hd)
    · split
      · rename_i heq
        rw [Memory.read_cons a k b m (fun d hd => heq ▸ hc d hd)]
        by_cases hk : k = a
        · simp [hk]
        · have : ¬ c.1 = k := fun e => hk (by omega)
          simp [hk, Memory.read, this]
      · rename_i hlt hne
        simp only [Memory.read]
        by_cases hk : c.1 = k
        · have : ¬ k = a := by omega
          simp [hk, this]
        · simp only [hk, if_false]
          exact ih hm'

theorem Memory.mem_put {m : Memory} {a : Nat} {b : Byte} {c : Host.Cell} (h : c ∈ m.put a b) :
    (c = (a, b) ∧ b ≠ Config.unlistedByte) ∨ c ∈ m := by
  induction m with
  | nil =>
    simp only [Memory.put, Memory.cons] at h
    split at h
    · simp at h
    · exact .inl ⟨by simpa using h, ‹_›⟩
  | cons d m ih =>
    unfold Memory.put Memory.cons at h
    split at h
    · split at h
      · exact .inr h
      · rcases List.mem_cons.mp h with rfl | h
        · exact .inl ⟨rfl, ‹_›⟩
        · exact .inr h
    · split at h
      · split at h
        · exact .inr (List.mem_cons_of_mem _ h)
        · rcases List.mem_cons.mp h with rfl | h
          · exact .inl ⟨rfl, ‹_›⟩
          · exact .inr (List.mem_cons_of_mem _ h)
      · rcases List.mem_cons.mp h with rfl | h
        · exact .inr (by simp)
        · rcases ih h with h | h
          · exact .inl h
          · exact .inr (List.mem_cons_of_mem _ h)

theorem Memory.put_pairwise {m : Memory} (a : Nat) (b : Byte) (hm : m.Pairwise (fun c d => c.1 < d.1)) :
    (m.put a b).Pairwise (fun c d => c.1 < d.1) := by
  induction m with
  | nil => unfold Memory.put Memory.cons; split <;> simp
  | cons c m ih =>
    obtain ⟨hc, hm'⟩ := List.pairwise_cons.mp hm
    unfold Memory.put
    split
    · unfold Memory.cons
      split
      · exact hm
      · refine List.pairwise_cons.mpr ⟨fun d hd => ?_, hm⟩
        rcases List.mem_cons.mp hd with rfl | hd
        · assumption
        · exact Nat.lt_trans ‹_› (hc d hd)
    · split
      · rename_i heq
        unfold Memory.cons
        split
        · exact hm'
        · exact List.pairwise_cons.mpr ⟨fun d hd => heq ▸ hc d hd, hm'⟩
      · refine List.pairwise_cons.mpr ⟨fun d hd => ?_, ih hm'⟩
        rcases Memory.mem_put hd with ⟨rfl, -⟩ | hd
        · simp only; omega
        · exact hc d hd

/-- A write reads back at its address and leaves every other byte alone (R53). -/
theorem Memory.read_write {m : Memory} (hm : m.wf) (a k : Nat) (b : Byte) :
    (m.write a b).read k = if k = a ∧ a < 4096 then b else m.read k := by
  unfold Memory.write
  split
  · rename_i h
    rw [Memory.read_put m a k b hm.1]
    simp [h]
  · rename_i h
    simp [h]

/-- Every write keeps the canonical form. -/
theorem Memory.write_wf {m : Memory} (hm : m.wf) (a : Nat) (b : Byte) : (m.write a b).wf := by
  unfold Memory.write
  split
  · refine ⟨Memory.put_pairwise a b hm.1, fun c hc => ?_⟩
    rcases Memory.mem_put hc with ⟨rfl, hb⟩ | hc
    · exact ⟨‹_›, hb⟩
    · exact hm.2 c hc
  · exact hm

theorem Memory.read_of_forall_lt {m : Memory} {k : Nat} (h : ∀ c ∈ m, k < c.1) : m.read k = Config.unlistedByte := by
  induction m with
  | nil => rfl
  | cons c m ih =>
    have hc := h c (by simp)
    rw [Memory.read, if_neg (by omega)]
    exact ih (fun d hd => h d (by simp [hd]))

/-- A byte outside the address space reads as an unlisted one. -/
theorem Memory.read_of_ge {m : Memory} (hm : m.wf) {k : Nat} (hk : 4096 ≤ k) :
    m.read k = Config.unlistedByte := by
  obtain ⟨-, hc⟩ := hm
  induction m with
  | nil => rfl
  | cons c m ih =>
    have : c.1 < 4096 := (hc c (by simp)).1
    rw [Memory.read, if_neg (by omega)]
    exact ih (fun d hd => hc d (by simp [hd]))

/-- Two memories in canonical form that read alike are the same list. -/
theorem Memory.ext_read {m n : Memory} (hm : m.wf) (hn : n.wf) (h : ∀ a, m.read a = n.read a) : m = n := by
  induction m generalizing n with
  | nil =>
    cases n with
    | nil => rfl
    | cons d n =>
      have := h d.1
      simp only [Memory.read, if_true] at this
      exact absurd this.symm (hn.2 d (by simp)).2
  | cons c m ih =>
    obtain ⟨hcm, hm'⟩ := List.pairwise_cons.mp hm.1
    have hcb := (hm.2 c (by simp)).2
    cases n with
    | nil =>
      have := h c.1
      simp only [Memory.read, if_true] at this
      exact absurd this hcb
    | cons d n =>
      obtain ⟨hdn, hn'⟩ := List.pairwise_cons.mp hn.1
      have hdb := (hn.2 d (by simp)).2
      have key : c.1 = d.1 := by
        rcases Nat.lt_trichotomy c.1 d.1 with hlt | heq | hlt
        · have := h c.1
          rw [Memory.read_of_forall_lt (m := d :: n) (k := c.1)] at this
          · simp only [Memory.read, if_true] at this
            exact absurd this hcb
          · intro e he
            rcases List.mem_cons.mp he with rfl | he
            · exact hlt
            · exact hlt.trans (hdn e he)
        · exact heq
        · have := h d.1
          rw [Memory.read_of_forall_lt (m := c :: m) (k := d.1)] at this
          · simp only [Memory.read, if_true] at this
            exact absurd this.symm hdb
          · intro e he
            rcases List.mem_cons.mp he with rfl | he
            · exact hlt
            · exact hlt.trans (hcm e he)
      have val : c.2 = d.2 := by
        have := h c.1
        simpa only [Memory.read, if_true, key] using this
      have tail : m = n := by
        refine ih ⟨hm', fun e he => hm.2 e (by simp [he])⟩ ⟨hn', fun e he => hn.2 e (by simp [he])⟩ fun a => ?_
        by_cases ha : a = c.1
        · rw [Memory.read_of_forall_lt (fun e he => ha ▸ hcm e he),
            Memory.read_of_forall_lt (fun e he => by rw [ha, key]; exact hdn e he)]
        · have := h a
          have hd : ¬ d.1 = a := fun e => ha (by omega)
          rwa [Memory.read, Memory.read, if_neg (fun e => ha e.symm), if_neg hd] at this
      rw [tail, show c = d from Prod.ext key val]

theorem Memory.mem_ofImage {image : Nat → Byte} {addrs : List Nat} {c : Host.Cell}
    (h : c ∈ Memory.ofImage image addrs) : c.1 ∈ addrs ∧ c.2 ≠ Config.unlistedByte := by
  induction addrs with
  | nil => simp [Memory.ofImage] at h
  | cons a addrs ih =>
    have h' : c ∈ Memory.cons a (image a) (Memory.ofImage image addrs) := h
    unfold Memory.cons at h'
    split at h'
    · exact ⟨List.mem_cons_of_mem _ (ih h').1, (ih h').2⟩
    · rcases List.mem_cons.mp h' with rfl | h'
      · exact ⟨by simp, ‹_›⟩
      · exact ⟨List.mem_cons_of_mem _ (ih h').1, (ih h').2⟩

/-- A memory made from an image reads as the image, at the addresses it was made for. -/
theorem Memory.read_ofImage (image : Nat → Byte) {addrs : List Nat} (h : addrs.Pairwise (· < ·)) (k : Nat) :
    (Memory.ofImage image addrs).read k = if k ∈ addrs then image k else Config.unlistedByte := by
  induction addrs with
  | nil => rfl
  | cons a addrs ih =>
    obtain ⟨ha, h'⟩ := List.pairwise_cons.mp h
    change (Memory.cons a (image a) (Memory.ofImage image addrs)).read k = _
    rw [Memory.read_cons a k _ _ (fun c hc => ha c.1 (Memory.mem_ofImage hc).1), ih h']
    by_cases hk : k = a
    · simp [hk]
    · simp [hk]

theorem Memory.ofImage_wf (image : Nat → Byte) {addrs : List Nat} (h : addrs.Pairwise (· < ·))
    (hlt : ∀ a ∈ addrs, a < 4096) : (Memory.ofImage image addrs).wf := by
  refine ⟨?_, fun c hc => ⟨hlt _ (Memory.mem_ofImage hc).1, (Memory.mem_ofImage hc).2⟩⟩
  clear hlt
  induction addrs with
  | nil => simp [Memory.ofImage]
  | cons a addrs ih =>
    obtain ⟨ha, h'⟩ := List.pairwise_cons.mp h
    change (Memory.cons a (image a) (Memory.ofImage image addrs)).Pairwise _
    unfold Memory.cons
    split
    · exact ih h'
    · exact List.pairwise_cons.mpr ⟨fun c hc => ha c.1 (Memory.mem_ofImage hc).1, ih h'⟩

/-! ### A loaded memory (R240) -/

/-- Every byte of a loaded memory is the byte of the load's image. -/
theorem Memory.read_load (rest : Memory) (font program : List Byte) {k : Nat} (hk : k < 4096) :
    (loadMemory rest font program).read k = loadImage rest font program k := by
  rw [loadMemory, Memory.read_ofImage _ List.pairwise_lt_range k, if_pos (List.mem_range.mpr hk)]

theorem Memory.load_wf (rest : Memory) (font program : List Byte) : (loadMemory rest font program).wf :=
  Memory.ofImage_wf _ List.pairwise_lt_range (fun _ h => List.mem_range.mp h)

/-- A load answers a state exactly where it is not refused, and it is the reset state with the loaded memory (R240, R241). -/
theorem resetLoad_next {rest : Memory} {font program : List Byte} {draws : Nat} {t : State} :
    resetLoad rest font program draws = .next t ↔ font.length = 80 ∧ program.length ≤ 3584 ∧
      t = State.loaded rest font program draws := by
  unfold resetLoad
  simp only [Config.fontSize, Config.progMax]
  split
  · constructor
    · intro e; cases e
    · rintro ⟨h1, h2, -⟩; omega
  · constructor
    · intro e; exact ⟨by omega, by omega, (Host.Outcome.next.inj e).symm⟩
    · rintro ⟨-, -, rfl⟩; rfl

/-! ### The same of the state -/

theorem State.readByte_writeByte {s : State} (hm : s.mem.wf) (a k : Nat) (b : Byte) :
    (s.writeByte a b).readByte k = if k = a ∧ a < 4096 then b else s.readByte k :=
  Memory.read_write hm a k b

theorem State.writeByte_wf {s : State} (hm : s.mem.wf) (a : Nat) (b : Byte) : (s.writeByte a b).mem.wf :=
  Memory.write_wf hm a b

theorem State.storeWord_wf {s : State} (hm : s.mem.wf) (a : Nat) (w : Word) : (s.storeWord a w).mem.wf :=
  State.writeByte_wf (State.writeByte_wf hm _ _) _ _

theorem State.writeBytes_wf {s : State} (hm : s.mem.wf) (a : Nat) (bs : List Byte) : (s.writeBytes a bs).mem.wf := by
  induction bs generalizing s a with
  | nil => exact hm
  | cons b bs ih => exact ih (State.writeByte_wf hm a b) (a + 1)

/-- Bytes stored from `a` up read back at their addresses; every other byte is as before (R54). -/
theorem State.readByte_writeBytes {s : State} (hm : s.mem.wf) {a : Nat} {bs : List Byte}
    (hr : a + bs.length ≤ 4096) (k : Nat) :
    (s.writeBytes a bs).readByte k =
      if a ≤ k ∧ k < a + bs.length then bs.getD (k - a) 0x00#8 else s.readByte k := by
  induction bs generalizing s a with
  | nil =>
    simp [State.writeBytes]
  | cons b bs ih =>
    rw [List.length_cons] at hr ⊢
    rw [State.writeBytes, ih (State.writeByte_wf hm a b) (by omega), State.readByte_writeByte hm]
    by_cases h1 : k = a
    · subst h1
      simp
      omega
    · by_cases h2 : a + 1 ≤ k ∧ k < a + 1 + bs.length
      · have h3 : a ≤ k ∧ k < a + (bs.length + 1) := by omega
        rw [if_pos h2, if_pos h3, show k - a = (k - (a + 1)) + 1 by omega, List.getD_cons_succ]
      · have h3 : ¬ (a ≤ k ∧ k < a + (bs.length + 1)) := by omega
        rw [if_neg h2, if_neg h3, if_neg (by omega)]

/-- Storing bytes changes memory alone. -/
theorem State.writeBytes_eq (s : State) (a : Nat) (bs : List Byte) :
    s.writeBytes a bs = { s with mem := (s.writeBytes a bs).mem } := by
  induction bs generalizing s a with
  | nil => rfl
  | cons b bs ih =>
    rw [State.writeBytes, ih]
    rfl

/-- A word stored at an address of memory reads back byte by byte. -/
theorem State.readByte_storeWord {s : State} (hm : s.mem.wf) {a : Nat} (ha : a + 1 < 4096) (w : Word) (k : Nat) :
    (s.storeWord a w).readByte k =
      if k = a then highByte w else if k = a + 1 then lowByte w else s.readByte k := by
  rw [State.storeWord, State.readByte_writeByte (State.writeByte_wf hm _ _), State.readByte_writeByte hm]
  by_cases h1 : k = a
  · subst h1
    have h2 : ¬ (k = k + 1) := by omega
    simp [show k < 4096 by omega]
  · by_cases h2 : k = a + 1
    · subst h2; simp [ha]
    · simp [h1, h2]

theorem wordOfBytes_split (w : Word) : wordOfBytes (highByte w) (lowByte w) = w := by
  apply BitVec.eq_of_getLsbD_eq
  intro k hk
  simp only [wordOfBytes, highByte, lowByte, BitVec.getLsbD_append, BitVec.getLsbD_extractLsb']
  by_cases h : k < 8
  · simp [h]
  · simp [h, show k - 8 < 8 by omega, show 8 + (k - 8) = k by omega]

/-- A fetch from where a word was stored yields the word (R62, R91). -/
theorem State.fetchWord_storeWord {s : State} (hm : s.mem.wf) (hp : s.pc.toNat + 1 ≤ 4095) (w : Word) :
    (s.storeWord s.pc.toNat w).fetchWord = some w := by
  have ha : s.pc.toNat + 1 < 4096 := by omega
  rw [State.fetchWord, State.storeWord_pc, if_pos hp, State.readByte_storeWord hm ha, State.readByte_storeWord hm ha]
  simp [wordOfBytes_split]

end Sys2Proof.Machine
end

