-- ==== Sys2Proof/Laws/Ops.lean ====
section
/-! SUPPORT. What each shared operation can do, said once: the stores and loads of several bytes, the fatal fault, the end of
a tick, the lowest pressed key, one flipped pixel. -/

namespace Sys2Proof.Machine

/-! ### Several bytes: STM, BCD (`writeBytes`), LDM (`loadRegs`) -/

section fields
variable (s : State) (a : Nat) (bs : List Byte)

@[simp] theorem State.writeBytes_v : (s.writeBytes a bs).v = s.v := by rw [s.writeBytes_eq]
@[simp] theorem State.writeBytes_i : (s.writeBytes a bs).i = s.i := by rw [s.writeBytes_eq]
@[simp] theorem State.writeBytes_pc : (s.writeBytes a bs).pc = s.pc := by rw [s.writeBytes_eq]
@[simp] theorem State.writeBytes_sp : (s.writeBytes a bs).sp = s.sp := by rw [s.writeBytes_eq]
@[simp] theorem State.writeBytes_stack : (s.writeBytes a bs).stack = s.stack := by rw [s.writeBytes_eq]
@[simp] theorem State.writeBytes_dt : (s.writeBytes a bs).dt = s.dt := by rw [s.writeBytes_eq]
@[simp] theorem State.writeBytes_st : (s.writeBytes a bs).st = s.st := by rw [s.writeBytes_eq]
@[simp] theorem State.writeBytes_disp : (s.writeBytes a bs).disp = s.disp := by rw [s.writeBytes_eq]
@[simp] theorem State.writeBytes_keys : (s.writeBytes a bs).keys = s.keys := by rw [s.writeBytes_eq]
@[simp] theorem State.writeBytes_halt : (s.writeBytes a bs).halt = s.halt := by rw [s.writeBytes_eq]
@[simp] theorem State.writeBytes_cause : (s.writeBytes a bs).cause = s.cause := by rw [s.writeBytes_eq]
@[simp] theorem State.writeBytes_info : (s.writeBytes a bs).info = s.info := by rw [s.writeBytes_eq]
@[simp] theorem State.writeBytes_out : (s.writeBytes a bs).out = s.out := by rw [s.writeBytes_eq]
@[simp] theorem State.writeBytes_draws : (s.writeBytes a bs).draws = s.draws := by rw [s.writeBytes_eq]
@[simp] theorem State.getV_writeBytes (r : Reg) : (s.writeBytes a bs).getV r = s.getV r := by rw [s.writeBytes_eq]; rfl
@[simp] theorem State.stackAt_writeBytes (k : Fin 16) : (s.writeBytes a bs).stackAt k = s.stackAt k := by
  rw [s.writeBytes_eq]; rfl

end fields

/-- Loading registers changes the register file alone. -/
theorem State.loadRegs_eq (s : State) (a n : Nat) : s.loadRegs a n = { s with v := (s.loadRegs a n).v } := by
  induction n with
  | zero => rfl
  | succ n ih => rw [State.loadRegs, ih]; rfl

section fields
variable (s : State) (a n : Nat)

@[simp] theorem State.loadRegs_i : (s.loadRegs a n).i = s.i := by rw [s.loadRegs_eq]
@[simp] theorem State.loadRegs_pc : (s.loadRegs a n).pc = s.pc := by rw [s.loadRegs_eq]
@[simp] theorem State.loadRegs_sp : (s.loadRegs a n).sp = s.sp := by rw [s.loadRegs_eq]
@[simp] theorem State.loadRegs_stack : (s.loadRegs a n).stack = s.stack := by rw [s.loadRegs_eq]
@[simp] theorem State.loadRegs_dt : (s.loadRegs a n).dt = s.dt := by rw [s.loadRegs_eq]
@[simp] theorem State.loadRegs_st : (s.loadRegs a n).st = s.st := by rw [s.loadRegs_eq]
@[simp] theorem State.loadRegs_disp : (s.loadRegs a n).disp = s.disp := by rw [s.loadRegs_eq]
@[simp] theorem State.loadRegs_keys : (s.loadRegs a n).keys = s.keys := by rw [s.loadRegs_eq]
@[simp] theorem State.loadRegs_mem : (s.loadRegs a n).mem = s.mem := by rw [s.loadRegs_eq]
@[simp] theorem State.loadRegs_halt : (s.loadRegs a n).halt = s.halt := by rw [s.loadRegs_eq]
@[simp] theorem State.loadRegs_cause : (s.loadRegs a n).cause = s.cause := by rw [s.loadRegs_eq]
@[simp] theorem State.loadRegs_info : (s.loadRegs a n).info = s.info := by rw [s.loadRegs_eq]
@[simp] theorem State.loadRegs_out : (s.loadRegs a n).out = s.out := by rw [s.loadRegs_eq]
@[simp] theorem State.loadRegs_draws : (s.loadRegs a n).draws = s.draws := by rw [s.loadRegs_eq]
@[simp] theorem State.readByte_loadRegs (k : Nat) : (s.loadRegs a n).readByte k = s.readByte k := by
  rw [s.loadRegs_eq]; rfl
@[simp] theorem State.stackAt_loadRegs (k : Fin 16) : (s.loadRegs a n).stackAt k = s.stackAt k := by
  rw [s.loadRegs_eq]; rfl

end fields

/-- The first `n` registers hold the bytes from `a` up, the others are as before (R155). -/
theorem State.getV_loadRegs (s : State) (a : Nat) {n : Nat} (hn : n ≤ 16) (r : Reg) :
    (s.loadRegs a n).getV r = if r.toNat < n then s.readByte (a + r.toNat) else s.getV r := by
  induction n with
  | zero => rfl
  | succ n ih =>
    rw [State.loadRegs, State.getV_setV, ih (by omega)]
    by_cases h : r = BitVec.ofNat 4 n
    · have hr : r.toNat = n := by rw [h, BitVec.toNat_ofNat, Nat.mod_eq_of_lt (by omega)]
      rw [if_pos h, if_pos (by omega), hr]
    · have hr : r.toNat ≠ n := by
        intro e
        exact h (by rw [← e, BitVec.ofNat_toNat, BitVec.setWidth_eq])
      rw [if_neg h]
      by_cases h' : r.toNat < n
      · rw [if_pos h', if_pos (by omega)]
      · rw [if_neg h', if_neg (by omega)]

@[simp] theorem State.length_firstRegs (s : State) (n : Nat) : (s.firstRegs n).length = n := by
  simp [State.firstRegs]

/-- The `k`-th byte STM stores is `V[k]` (R154). -/
theorem State.getD_firstRegs (s : State) {n k : Nat} (hk : k < n) :
    (s.firstRegs n).getD k 0x00#8 = s.getV (BitVec.ofNat 4 k) := by
  simp [State.firstRegs, hk]

theorem accessInRange_iff (i0 : Word) (count : Nat) :
    accessInRange i0 count = true ↔ count = 0 ∨ i0.toNat + count ≤ 4096 := by
  simp only [accessInRange, Bool.or_eq_true, beq_iff_eq, decide_eq_true_eq]
  simp only [effAddr]
  omega

/-! ### Faults and the tick -/

/-- `raise` answers a next state, and it is the faulted one (R206). -/
@[simp] theorem raise_eq (c : FaultCause) (d : Nat) (s : State) : raise c d s = .next (s.faulted c d) := rfl

/-- The codes are 1 to 5 (R200). -/
theorem causeCode_range (c : FaultCause) : 1 ≤ (causeCode c).toNat ∧ (causeCode c).toNat ≤ 5 := by
  cases c <;> decide

theorem State.faulted_info_pc (s : State) (c : FaultCause) (d : Nat) :
    (s.faulted c d).info.extractLsb' 16 16 = s.pc := by
  apply BitVec.eq_of_getLsbD_eq
  intro k hk
  simp only [State.faulted_info, BitVec.getLsbD_extractLsb', BitVec.getLsbD_append]
  simp [hk, show ¬ (16 + k < 16) by omega]

/-- `endTick` answers next exactly where the instruction phase did; the timers step unless the core is halted (R98). -/
theorem endTick_next {r : Result} {t : State} :
    endTick r = .next t ↔ ∃ u, r = .next u ∧ t = if u.halt then u else timerPhase u := by
  cases r with
  | next u =>
    constructor
    · intro h
      exact ⟨u, rfl, (Host.Outcome.next.inj h).symm⟩
    · rintro ⟨v, hv, rfl⟩
      rw [Host.Outcome.next.inj hv]
      rfl
  | fault r => simp [endTick]
  | refused r => simp [endTick]

/-- What a tick is, case by case (R90): the halted core, the fetch that fails, the fetched word's instruction or no-op. -/
theorem step_cases (s : State) :
    (s.halt = true ∧ step s = .next s.clearOut) ∨
    (s.halt = false ∧ s.fetchWord = none ∧ step s = raise .fetchOutOfRange s.pc.toNat s.clearOut) ∨
    (∃ w, s.halt = false ∧ s.fetchWord = some w ∧ step s = endTick (execWord w s.clearOut)) := by
  by_cases h : s.halt = true
  · exact .inl ⟨h, by rw [step, if_pos h]⟩
  · have h' : s.halt = false := by simpa using h
    refine .inr ?_
    have hs : step s = tickRunning s.clearOut := by rw [step, if_neg h]
    have hf : s.clearOut.fetchWord = s.fetchWord := State.fetchWord_clearOut s
    cases hw : s.fetchWord with
    | none => exact .inl ⟨h', rfl, by rw [hs, tickRunning, hf, hw]; rfl⟩
    | some w => exact .inr ⟨w, h', rfl, by rw [hs, tickRunning, hf, hw]⟩

@[simp] theorem countDown_toNat (t : Byte) : (countDown t).toNat = t.toNat - 1 := by
  unfold countDown
  split
  · rename_i h; simp [h]
  · rename_i h
    have : t.toNat ≠ 0 := fun e => h (BitVec.eq_of_toNat_eq (by simpa using e))
    have := t.isLt
    rw [BitVec.toNat_sub]
    simp
    omega

/-- A fetch succeeds exactly where both bytes are in memory (R91). -/
theorem State.fetchWord_eq_none (s : State) : s.fetchWord = none ↔ 0xFFE < s.pc.toNat := by
  unfold State.fetchWord
  split <;> simp <;> omega

/-! ### The lowest pressed key (R183) -/

theorem lowestKeyFrom_some {keys : BitVec 16} {fuel k j : Nat} (h : lowestKeyFrom keys fuel k = some j) :
    k ≤ j ∧ j < k + fuel ∧ keys.getLsbD j = true ∧ ∀ i, k ≤ i → i < j → keys.getLsbD i = false := by
  induction fuel generalizing k with
  | zero => simp [lowestKeyFrom] at h
  | succ fuel ih =>
    unfold lowestKeyFrom at h
    split at h
    · obtain rfl : k = j := by simpa using h
      exact ⟨Nat.le_refl _, by omega, ‹_›, fun i h1 h2 => by omega⟩
    · rename_i hk
      obtain ⟨h1, h2, h3, h4⟩ := ih h
      refine ⟨by omega, by omega, h3, fun i hi hj => ?_⟩
      by_cases e : i = k
      · subst e; simpa using hk
      · exact h4 i (by omega) hj

theorem lowestKeyFrom_none {keys : BitVec 16} {fuel k : Nat} (h : lowestKeyFrom keys fuel k = none) :
    ∀ i, k ≤ i → i < k + fuel → keys.getLsbD i = false := by
  induction fuel generalizing k with
  | zero => intro i h1 h2; omega
  | succ fuel ih =>
    unfold lowestKeyFrom at h
    split at h
    · simp at h
    · rename_i hk
      intro i h1 h2
      by_cases e : i = k
      · subst e; simpa using hk
      · exact ih h i (by omega) (by omega)

/-- The key found is pressed and no lower one is. -/
theorem lowestKey_some {keys : BitVec 16} {k : Nat} (h : lowestKey keys = some k) :
    k < 16 ∧ keys.getLsbD k = true ∧ ∀ j, j < k → keys.getLsbD j = false := by
  obtain ⟨-, h2, h3, h4⟩ := lowestKeyFrom_some h
  exact ⟨by omega, h3, fun j hj => h4 j (Nat.zero_le _) hj⟩

/-- None is found exactly when no key is pressed. -/
theorem lowestKey_none_iff {keys : BitVec 16} : lowestKey keys = none ↔ keys = 0#16 := by
  constructor
  · intro h
    apply BitVec.eq_of_getLsbD_eq
    intro i hi
    simpa using lowestKeyFrom_none h i (Nat.zero_le _) (by omega)
  · rintro rfl
    decide

/-! ### One pixel (R171) -/

/-- Flipping one cell changes that cell and no other. -/
theorem pixelAt_flipPixel (d : Display) {p : Nat} (hp : p < 2048) (q : Nat) :
    pixelAt (flipPixel d p) q = (pixelAt d q ^^ decide (q = p)) := by
  have hp' : p / 64 < 32 := by omega
  simp only [pixelAt, flipPixel, Config.dispW, Config.dispH, hp', dif_pos]
  by_cases hq : q / 64 < 32
  · rw [dif_pos hq, dif_pos hq, Vector.getElem_set]
    by_cases hrow : p / 64 = q / 64
    · simp only [hrow, if_true, BitVec.getLsbD_xor, BitVec.getLsbD_shiftLeft, BitVec.getLsbD_one]
      congr 1
      by_cases h : q = p
      · subst h; simp [Nat.mod_lt]
      · rw [decide_eq_false h]
        by_cases h2 : q % 64 < p % 64
        · simp [h2]
        · have : ¬ (q % 64 - p % 64 = 0) := by omega
          simp [this]
    · rw [if_neg hrow]
      have : q ≠ p := fun e => hrow (by rw [e])
      simp [this]
  · have : q ≠ p := by omega
    simp [hq, this]

/-- Two displays with the same pixels are the same. -/
theorem display_ext {d e : Display} (h : ∀ p, p < 2048 → pixelAt d p = pixelAt e p) : d = e := by
  apply Vector.ext
  intro r hr
  apply BitVec.eq_of_getLsbD_eq
  intro c hc
  have hp := h (c + r * 64) (by omega)
  have h1 : (c + r * 64) / 64 = r := by omega
  have h2 : (c + r * 64) % 64 = c := by omega
  simpa only [pixelAt, Config.dispW, Config.dispH, h1, h2, hr, dif_pos] using hp

@[simp] theorem pixelAt_clear (p : Nat) : pixelAt (Vector.replicate 32 0#64) p = false := by
  simp [pixelAt]

theorem cellIndex_lt {px py : Nat} (hx : px < 64) (hy : py < 32) : cellIndex px py < 2048 := by
  simp only [cellIndex, Config.dispW]; omega

/-- Different pixels are different cells (10_state.md R28). -/
theorem cellIndex_inj {px py qx qy : Nat} (hx : px < 64) (hq : qx < 64) (h : cellIndex px py = cellIndex qx qy) :
    px = qx ∧ py = qy := by
  simp only [cellIndex, Config.dispW] at h; omega

theorem flagByte_eq (b : Bool) : flagByte b = BitVec.ofNat 8 b.toNat := by cases b <;> rfl

end Sys2Proof.Machine
end

