-- ==== Sys2Proof/Laws/PerInstr.lean ====
section
/-! SUPPORT. Statements about every instruction as syntax, one lemma a constructor (LAWS.json). -/

namespace Sys2Proof.Laws.FitsItsRow

/-- The row of an instruction is a row of the opcode map and its word fits that row (spec 30_encoding.md R74): the encoder
sets every fixed digit of the pattern, whatever the operands. -/
def Statement (i : Instr) : Prop := i.row ∈ opcodeRows ∧ i.row.fits (encode i) = true

theorem cls : Statement (.cls) := ⟨List.mem_of_getElem? (i := 0) rfl, by decide⟩

theorem ret : Statement (.ret) := ⟨List.mem_of_getElem? (i := 1) rfl, by decide⟩

theorem jp (nnn : Addr12) : Statement (.jp nnn) := by
  refine ⟨List.mem_of_getElem? (i := 2) rfl, ?_⟩
  simp [Instr.row, encode, OpcodeRow.fits, and_mask_family]
  decide

theorem call (nnn : Addr12) : Statement (.call nnn) := by
  refine ⟨List.mem_of_getElem? (i := 3) rfl, ?_⟩
  simp [Instr.row, encode, OpcodeRow.fits, and_mask_family]
  decide

theorem seImm (x : Reg) (nn : Byte) : Statement (.seImm x nn) := by
  refine ⟨List.mem_of_getElem? (i := 4) rfl, ?_⟩
  simp [Instr.row, encode, OpcodeRow.fits, and_mask_family]
  decide

theorem sneImm (x : Reg) (nn : Byte) : Statement (.sneImm x nn) := by
  refine ⟨List.mem_of_getElem? (i := 5) rfl, ?_⟩
  simp [Instr.row, encode, OpcodeRow.fits, and_mask_family]
  decide

theorem seReg (x y : Reg) : Statement (.seReg x y) := by
  refine ⟨List.mem_of_getElem? (i := 6) rfl, ?_⟩
  simp [Instr.row, encode, OpcodeRow.fits, and_mask_function]
  decide

theorem ldImm (x : Reg) (nn : Byte) : Statement (.ldImm x nn) := by
  refine ⟨List.mem_of_getElem? (i := 7) rfl, ?_⟩
  simp [Instr.row, encode, OpcodeRow.fits, and_mask_family]
  decide

theorem addImm (x : Reg) (nn : Byte) : Statement (.addImm x nn) := by
  refine ⟨List.mem_of_getElem? (i := 8) rfl, ?_⟩
  simp [Instr.row, encode, OpcodeRow.fits, and_mask_family]
  decide

theorem ldReg (x y : Reg) : Statement (.ldReg x y) := by
  refine ⟨List.mem_of_getElem? (i := 9) rfl, ?_⟩
  simp [Instr.row, encode, OpcodeRow.fits, and_mask_function]
  decide

theorem orReg (x y : Reg) : Statement (.orReg x y) := by
  refine ⟨List.mem_of_getElem? (i := 10) rfl, ?_⟩
  simp [Instr.row, encode, OpcodeRow.fits, and_mask_function]
  decide

theorem andReg (x y : Reg) : Statement (.andReg x y) := by
  refine ⟨List.mem_of_getElem? (i := 11) rfl, ?_⟩
  simp [Instr.row, encode, OpcodeRow.fits, and_mask_function]
  decide

theorem xorReg (x y : Reg) : Statement (.xorReg x y) := by
  refine ⟨List.mem_of_getElem? (i := 12) rfl, ?_⟩
  simp [Instr.row, encode, OpcodeRow.fits, and_mask_function]
  decide

theorem addReg (x y : Reg) : Statement (.addReg x y) := by
  refine ⟨List.mem_of_getElem? (i := 13) rfl, ?_⟩
  simp [Instr.row, encode, OpcodeRow.fits, and_mask_function]
  decide

theorem subReg (x y : Reg) : Statement (.subReg x y) := by
  refine ⟨List.mem_of_getElem? (i := 14) rfl, ?_⟩
  simp [Instr.row, encode, OpcodeRow.fits, and_mask_function]
  decide

theorem shr (x y : Reg) : Statement (.shr x y) := by
  refine ⟨List.mem_of_getElem? (i := 15) rfl, ?_⟩
  simp [Instr.row, encode, OpcodeRow.fits, and_mask_function]
  decide

theorem subn (x y : Reg) : Statement (.subn x y) := by
  refine ⟨List.mem_of_getElem? (i := 16) rfl, ?_⟩
  simp [Instr.row, encode, OpcodeRow.fits, and_mask_function]
  decide

theorem shl (x y : Reg) : Statement (.shl x y) := by
  refine ⟨List.mem_of_getElem? (i := 17) rfl, ?_⟩
  simp [Instr.row, encode, OpcodeRow.fits, and_mask_function]
  decide

theorem sneReg (x y : Reg) : Statement (.sneReg x y) := by
  refine ⟨List.mem_of_getElem? (i := 18) rfl, ?_⟩
  simp [Instr.row, encode, OpcodeRow.fits, and_mask_function]
  decide

theorem ldIndex (nnn : Addr12) : Statement (.ldIndex nnn) := by
  refine ⟨List.mem_of_getElem? (i := 19) rfl, ?_⟩
  simp [Instr.row, encode, OpcodeRow.fits, and_mask_family]
  decide

theorem jpV0 (nnn : Addr12) : Statement (.jpV0 nnn) := by
  refine ⟨List.mem_of_getElem? (i := 20) rfl, ?_⟩
  simp [Instr.row, encode, OpcodeRow.fits, and_mask_family]
  decide

theorem rnd (x : Reg) (nn : Byte) : Statement (.rnd x nn) := by
  refine ⟨List.mem_of_getElem? (i := 21) rfl, ?_⟩
  simp [Instr.row, encode, OpcodeRow.fits, and_mask_family]
  decide

theorem drw (x y : Reg) (n : Nibble) : Statement (.drw x y n) := by
  refine ⟨List.mem_of_getElem? (i := 22) rfl, ?_⟩
  simp [Instr.row, encode, OpcodeRow.fits, and_mask_family]
  decide

theorem skp (x : Reg) : Statement (.skp x) := by
  refine ⟨List.mem_of_getElem? (i := 23) rfl, ?_⟩
  simp [Instr.row, encode, OpcodeRow.fits, and_mask_lowByte]
  decide

theorem sknp (x : Reg) : Statement (.sknp x) := by
  refine ⟨List.mem_of_getElem? (i := 24) rfl, ?_⟩
  simp [Instr.row, encode, OpcodeRow.fits, and_mask_lowByte]
  decide

theorem ldDelay (x : Reg) : Statement (.ldDelay x) := by
  refine ⟨List.mem_of_getElem? (i := 25) rfl, ?_⟩
  simp [Instr.row, encode, OpcodeRow.fits, and_mask_lowByte]
  decide

theorem waitKey (x : Reg) : Statement (.waitKey x) := by
  refine ⟨List.mem_of_getElem? (i := 26) rfl, ?_⟩
  simp [Instr.row, encode, OpcodeRow.fits, and_mask_lowByte]
  decide

theorem setDelay (x : Reg) : Statement (.setDelay x) := by
  refine ⟨List.mem_of_getElem? (i := 27) rfl, ?_⟩
  simp [Instr.row, encode, OpcodeRow.fits, and_mask_lowByte]
  decide

theorem setSound (x : Reg) : Statement (.setSound x) := by
  refine ⟨List.mem_of_getElem? (i := 28) rfl, ?_⟩
  simp [Instr.row, encode, OpcodeRow.fits, and_mask_lowByte]
  decide

theorem addIndex (x : Reg) : Statement (.addIndex x) := by
  refine ⟨List.mem_of_getElem? (i := 29) rfl, ?_⟩
  simp [Instr.row, encode, OpcodeRow.fits, and_mask_lowByte]
  decide

theorem font (x : Reg) : Statement (.font x) := by
  refine ⟨List.mem_of_getElem? (i := 30) rfl, ?_⟩
  simp [Instr.row, encode, OpcodeRow.fits, and_mask_lowByte]
  decide

theorem bcd (x : Reg) : Statement (.bcd x) := by
  refine ⟨List.mem_of_getElem? (i := 31) rfl, ?_⟩
  simp [Instr.row, encode, OpcodeRow.fits, and_mask_lowByte]
  decide

theorem stm (x : Reg) : Statement (.stm x) := by
  refine ⟨List.mem_of_getElem? (i := 32) rfl, ?_⟩
  simp [Instr.row, encode, OpcodeRow.fits, and_mask_lowByte]
  decide

theorem ldm (x : Reg) : Statement (.ldm x) := by
  refine ⟨List.mem_of_getElem? (i := 33) rfl, ?_⟩
  simp [Instr.row, encode, OpcodeRow.fits, and_mask_lowByte]
  decide

end Sys2Proof.Laws.FitsItsRow
end

