-- ==== Sys2Proof/Tests/Slice0.lean ====
section
/-! SUPPORT. The model's own tests. Expected words come from the patterns of spec/30_encoding.md R71 and R74, expected
results from the vectors of spec/95_test_vectors.md (part 2; S<n> is part 1). After them, for every obligation that has
hypotheses, a witness that meets them. -/

namespace Sys2Proof.Tests

open Sys2Proof Sys2Proof.Machine

/-! ### Helpers -/

/-- The next state, where there is one. -/
def stateOf : Result → Option State
  | .next t => some t
  | .fault _ => none
  | .refused _ => none

/-- The reset state with some registers set. -/
def regs (l : List (Reg × Byte)) : State := l.foldl (fun s p => s.setV p.1 p.2) State.reset

/-- One tick of a core whose next instruction word is `w`. -/
def tick (w : Nat) (s : State) : Option State := stateOf (step (s.withFetchWord 16 w))

/-- A display with the given cells lit. -/
def lit (cells : List Nat) : Display := cells.foldl flipPixel (Vector.replicate 32 0#64)

/-- The three registers that record a fault. -/
def faultOf (o : Option State) : Option (Bool × BitVec 3 × BitVec 32) := o.map fun t => (t.halt, t.cause, t.info)

/-! ### Well-formed words (R75, R76): the words of section 2.1 that are no instruction -/

theorem test_refuses_0x0000 : wellFormedWord 0x0000#16 = false := by decide
theorem test_refuses_0x01E0 : wellFormedWord 0x01E0#16 = false := by decide
theorem test_refuses_0x00E1 : wellFormedWord 0x00E1#16 = false := by decide
theorem test_refuses_0x5121 : wellFormedWord 0x5121#16 = false := by decide
theorem test_refuses_0x8128 : wellFormedWord 0x8128#16 = false := by decide
theorem test_refuses_0x812F : wellFormedWord 0x812F#16 = false := by decide
theorem test_refuses_0x9ABF : wellFormedWord 0x9ABF#16 = false := by decide
theorem test_refuses_0xE19F : wellFormedWord 0xE19F#16 = false := by decide
theorem test_refuses_0xF100 : wellFormedWord 0xF100#16 = false := by decide
theorem test_refuses_0xF175 : wellFormedWord 0xF175#16 = false := by decide
theorem test_accepts_words : [0x00E0#16, 0x00EE#16, 0x5120#16, 0x812E#16, 0x9AB0#16, 0xE19E#16, 0xF165#16].all wellFormedWord = true := by
  decide
theorem test_unknown_named : decode [0xF1#8, 0x75#8] = .error (.unknownOpcode 0xF175#16) := rfl
theorem test_truncated_named : decode [0xF1#8] = .error .truncated := rfl

/-! ### One word of each constructor, its digits written out from R74 -/

theorem test_decode_cls : decodeTableWord 16 0x00E0 = some .cls := by decide
theorem test_decode_ret : decodeTableWord 16 0x00EE = some .ret := by decide
theorem test_decode_jp : decodeTableWord 16 0x1ABC = some (.jp 0xABC#12) := by decide
theorem test_decode_call : decodeTableWord 16 0x2DEF = some (.call 0xDEF#12) := by decide
theorem test_decode_seImm : decodeTableWord 16 0x332A = some (.seImm 0x3#4 0x2A#8) := by decide
theorem test_decode_sneImm : decodeTableWord 16 0x4F81 = some (.sneImm 0xF#4 0x81#8) := by decide
theorem test_decode_seReg : decodeTableWord 16 0x51A0 = some (.seReg 0x1#4 0xA#4) := by decide
theorem test_decode_ldImm : decodeTableWord 16 0x6A7F = some (.ldImm 0xA#4 0x7F#8) := by decide
theorem test_decode_addImm : decodeTableWord 16 0x7F02 = some (.addImm 0xF#4 0x02#8) := by decide
theorem test_decode_ldReg : decodeTableWord 16 0x8120 = some (.ldReg 0x1#4 0x2#4) := by decide
theorem test_decode_orReg : decodeTableWord 16 0x8E11 = some (.orReg 0xE#4 0x1#4) := by decide
theorem test_decode_andReg : decodeTableWord 16 0x8122 = some (.andReg 0x1#4 0x2#4) := by decide
theorem test_decode_xorReg : decodeTableWord 16 0x8673 = some (.xorReg 0x6#4 0x7#4) := by decide
theorem test_decode_addReg : decodeTableWord 16 0x8F24 = some (.addReg 0xF#4 0x2#4) := by decide
theorem test_decode_subReg : decodeTableWord 16 0x8125 = some (.subReg 0x1#4 0x2#4) := by decide
theorem test_decode_shr : decodeTableWord 16 0x89A6 = some (.shr 0x9#4 0xA#4) := by decide
theorem test_decode_subn : decodeTableWord 16 0x8127 = some (.subn 0x1#4 0x2#4) := by decide
theorem test_decode_shl : decodeTableWord 16 0x8BCE = some (.shl 0xB#4 0xC#4) := by decide
theorem test_decode_sneReg : decodeTableWord 16 0x9120 = some (.sneReg 0x1#4 0x2#4) := by decide
theorem test_decode_ldIndex : decodeTableWord 16 0xA2F0 = some (.ldIndex 0x2F0#12) := by decide
theorem test_decode_jpV0 : decodeTableWord 16 0xB300 = some (.jpV0 0x300#12) := by decide
theorem test_decode_rnd : decodeTableWord 16 0xC30F = some (.rnd 0x3#4 0x0F#8) := by decide
theorem test_decode_drw : decodeTableWord 16 0xD345 = some (.drw 0x3#4 0x4#4 0x5#4) := by decide
theorem test_decode_skp : decodeTableWord 16 0xE29E = some (.skp 0x2#4) := by decide
theorem test_decode_sknp : decodeTableWord 16 0xE2A1 = some (.sknp 0x2#4) := by decide
theorem test_decode_ldDelay : decodeTableWord 16 0xF107 = some (.ldDelay 0x1#4) := by decide
theorem test_decode_waitKey : decodeTableWord 16 0xF30A = some (.waitKey 0x3#4) := by decide
theorem test_decode_setDelay : decodeTableWord 16 0xF115 = some (.setDelay 0x1#4) := by decide
theorem test_decode_setSound : decodeTableWord 16 0xF118 = some (.setSound 0x1#4) := by decide
theorem test_decode_addIndex : decodeTableWord 16 0xF21E = some (.addIndex 0x2#4) := by decide
theorem test_decode_font : decodeTableWord 16 0xF429 = some (.font 0x4#4) := by decide
theorem test_decode_bcd : decodeTableWord 16 0xF033 = some (.bcd 0x0#4) := by decide
theorem test_decode_stm : decodeTableWord 16 0xF355 = some (.stm 0x3#4) := by decide
theorem test_decode_ldm : decodeTableWord 16 0xF265 = some (.ldm 0x2#4) := by decide

/-! ### The tick and control flow (sections 2.1, 2.2, 2.7) -/

theorem test_reset_memory_canonical : State.reset.mem.wf := ⟨List.Pairwise.nil, by simp [State.reset]⟩

theorem test_odd_pc : (tick 0x6A7F { State.reset with pc := 0x0201#16 }).map (fun t => (t.getV 0xA#4, t.pc)) =
    some (0x7F#8, 0x0203#16) := by decide

theorem test_last_word : (tick 0x6001 { State.reset with pc := 0x0FFE#16 }).map (·.pc) = some 0x1000#16 := by decide

theorem test_fetch_fault : faultOf (stateOf (step { State.reset with pc := 0x1000#16 })) =
    some (true, 3#3, 0x10001000#32) := by decide

theorem test_unknown : (tick 0x0000 { State.reset with dt := 0x05#8 }).map (fun t => (t.pc, t.dt, t.out.unknownOpcode)) =
    some (0x0202#16, 0x04#8, some 0x0000#16) := by decide

theorem test_halted_tick : stateOf (step { State.reset with halt := true, cause := 2#3, dt := 0x05#8 }) =
    some { State.reset with halt := true, cause := 2#3, dt := 0x05#8 } := by decide

theorem test_faulting_tick_keeps_timers : (tick 0x00EE { State.reset with dt := 0x05#8 }).map (fun t => (t.halt, t.dt, t.pc)) =
    some (true, 0x05#8, 0x0200#16) := by decide

theorem test_jp : (tick 0x1201 State.reset).map (·.pc) = some 0x0201#16 := by decide

theorem test_call : (tick 0x2300 { State.reset with sp := 15 }).map (fun t => (t.stackAt 15, t.sp, t.pc)) =
    some (0x0202#16, 16, 0x0300#16) := by decide

theorem test_call_overflow : faultOf (tick 0x2300 { State.reset with sp := 16 }) = some (true, 1#3, 0x02000010#32) := by decide

theorem test_ret : (tick 0x00EE { State.reset with pc := 0x0300#16, sp := 1, stack := State.reset.stack.set 0 0x0206#16 }).map
    (fun t => (t.sp, t.pc)) = some (0, 0x0206#16) := by decide

theorem test_ret_underflow : faultOf (tick 0x00EE State.reset) = some (true, 2#3, 0x02000000#32) := by decide

theorem test_seImm_taken : (tick 0x332A (regs [(0x3#4, 0x2A#8)])).map (·.pc) = some 0x0204#16 := by decide
theorem test_seImm_not : (tick 0x332A (regs [(0x3#4, 0x2B#8)])).map (·.pc) = some 0x0202#16 := by decide
theorem test_sneImm_not : (tick 0x432A (regs [(0x3#4, 0x2A#8)])).map (·.pc) = some 0x0202#16 := by decide
theorem test_sneImm_taken : (tick 0x432A State.reset).map (·.pc) = some 0x0204#16 := by decide

theorem test_seReg_taken : (tick 0x5120 (regs [(0x1#4, 0x07#8), (0x2#4, 0x07#8)])).map (·.pc) = some 0x0204#16 := by decide
theorem test_seReg_not : (tick 0x5120 (regs [(0x1#4, 0x07#8), (0x2#4, 0x08#8)])).map (·.pc) = some 0x0202#16 := by decide
theorem test_sneReg_taken : (tick 0x9120 (regs [(0x1#4, 0x07#8), (0x2#4, 0x08#8)])).map (·.pc) = some 0x0204#16 := by decide
theorem test_sneReg_not : (tick 0x9120 (regs [(0x1#4, 0x07#8), (0x2#4, 0x07#8)])).map (·.pc) = some 0x0202#16 := by decide

theorem test_jpV0 : (tick 0xB300 (regs [(0x0#4, 0x10#8)])).map (·.pc) = some 0x0310#16 := by decide
theorem test_jpV0_unmasked : (tick 0xBFFF (regs [(0x0#4, 0xFF#8)])).map (·.pc) = some 0x10FE#16 := by decide

/-! ### Arithmetic (section 2.3) -/

theorem test_ldImm : (tick 0x6F05 State.reset).map (·.getV vf) = some 0x05#8 := by decide

theorem test_addImm : (tick 0x7101 (regs [(0x1#4, 0xFF#8)])).map (fun t => (t.getV 0x1#4, t.getV vf)) = some (0x00#8, 0x00#8) := by
  decide

theorem test_ldReg : (tick 0x8120 (regs [(0x2#4, 0x5C#8)])).map (·.getV 0x1#4) = some 0x5C#8 := by decide

theorem test_orReg : (tick 0x8121 (regs [(0x1#4, 0xF0#8), (0x2#4, 0x0F#8), (0xF#4, 0x01#8)])).map
    (fun t => (t.getV 0x1#4, t.getV vf)) = some (0xFF#8, 0x01#8) := by decide

theorem test_andReg : (tick 0x8122 (regs [(0x1#4, 0xF0#8), (0x2#4, 0x3C#8)])).map (·.getV 0x1#4) = some 0x30#8 := by decide
theorem test_xorReg : (tick 0x8123 (regs [(0x1#4, 0xF0#8), (0x2#4, 0x3C#8)])).map (·.getV 0x1#4) = some 0xCC#8 := by decide

theorem test_addReg : (tick 0x81F4 (regs [(0x1#4, 0xFF#8), (0xF#4, 0x01#8)])).map (fun t => (t.getV 0x1#4, t.getV vf)) =
    some (0x00#8, 0x01#8) := by decide
theorem test_addReg_xF : (tick 0x8F24 (regs [(0xF#4, 0x05#8), (0x2#4, 0x03#8)])).map (·.getV vf) = some 0x00#8 := by decide

theorem test_subReg : (tick 0x8125 (regs [(0x1#4, 0x01#8), (0x2#4, 0x02#8)])).map (fun t => (t.getV 0x1#4, t.getV vf)) =
    some (0xFF#8, 0x01#8) := by decide
theorem test_subReg_equal : (tick 0x8125 (regs [(0x1#4, 0x05#8), (0x2#4, 0x05#8), (0xF#4, 0x01#8)])).map
    (fun t => (t.getV 0x1#4, t.getV vf)) = some (0x00#8, 0x00#8) := by decide

theorem test_subn : (tick 0x8127 (regs [(0x1#4, 0x02#8), (0x2#4, 0x01#8)])).map (fun t => (t.getV 0x1#4, t.getV vf)) =
    some (0xFF#8, 0x01#8) := by decide
theorem test_subn_xF : (tick 0x8F27 (regs [(0xF#4, 0x03#8), (0x2#4, 0x02#8)])).map (·.getV vf) = some 0x01#8 := by decide

theorem test_shr : (tick 0x8126 (regs [(0x1#4, 0x05#8), (0x2#4, 0xFF#8)])).map (fun t => (t.getV 0x1#4, t.getV vf)) =
    some (0x02#8, 0x01#8) := by decide
theorem test_shr_xF : (tick 0x8F26 (regs [(0xF#4, 0x05#8)])).map (·.getV vf) = some 0x02#8 := by decide

theorem test_shl : (tick 0x812E (regs [(0x1#4, 0x81#8)])).map (fun t => (t.getV 0x1#4, t.getV vf)) = some (0x02#8, 0x01#8) := by
  decide
theorem test_shl_xF : (tick 0x8F2E (regs [(0xF#4, 0x81#8)])).map (·.getV vf) = some 0x02#8 := by decide

theorem test_rnd : (rndWith 0xB7#8 0x3#4 0x0F#8 State.reset).getV 0x3#4 = 0x07#8 := by decide
theorem test_rnd_mask0 : (rndWith 0xB7#8 0x3#4 0x00#8 State.reset).getV 0x3#4 = 0x00#8 := by decide

/-! ### Index register and memory (section 2.4) -/

theorem test_ldIndex : (tick 0xA2F0 State.reset).map (·.i) = some 0x02F0#16 := by decide

theorem test_addIndex : (tick 0xF21E ((regs [(0x2#4, 0x01#8)]).setI 0x0FFF#16)).map (fun t => (t.i, t.getV vf)) =
    some (0x1000#16, 0x00#8) := by decide
theorem test_addIndex_wraps : (tick 0xF21E ((regs [(0x2#4, 0x02#8)]).setI 0xFFFF#16)).map (·.i) = some 0x0001#16 := by decide

theorem test_font : (tick 0xF429 (regs [(0x4#4, 0x0A#8)])).map (·.i) = some 0x0032#16 := by decide
theorem test_font_unmasked : (tick 0xF429 (regs [(0x4#4, 0xFF#8)])).map (·.i) = some 0x04FB#16 := by decide

theorem test_bcd : (tick 0xF033 ((regs [(0x0#4, 0xEA#8)]).setI 0x0300#16)).map
    (fun t => (t.readByte 0x300, t.readByte 0x301, t.readByte 0x302)) = some (0x02#8, 0x03#8, 0x04#8) := by decide
theorem test_bcd_fault : faultOf (tick 0xF033 (State.reset.setI 0x0FFE#16)) = some (true, 4#3, 0x02001000#32) := by decide

theorem test_stm : (tick 0xF155 ((regs [(0x0#4, 0x11#8), (0x1#4, 0x22#8), (0x2#4, 0x33#8)]).setI 0x0300#16)).map
    (fun t => (t.readByte 0x300, t.readByte 0x301, t.readByte 0x302, t.i)) =
    some (0x11#8, 0x22#8, 0x00#8, 0x0300#16) := by decide
theorem test_stm_fault : faultOf (tick 0xF155 (State.reset.setI 0xFFFF#16)) = some (true, 4#3, 0x02000000#32) := by decide

theorem test_ldm : (tick 0xF165 (((regs [(0x2#4, 0x99#8)]).setI 0x0300#16).writeBytes 0x300 [0x02#8, 0x03#8, 0x04#8])).map
    (fun t => (t.getV 0x0#4, t.getV 0x1#4, t.getV 0x2#4)) = some (0x02#8, 0x03#8, 0x99#8) := by decide
theorem test_ldm_fault : faultOf (tick 0xF065 (State.reset.setI 0x1000#16)) = some (true, 4#3, 0x02001000#32) := by decide

/-! ### Display (section 2.5) -/

theorem test_cls : (tick 0x00E0 { regs [(0xF#4, 0x01#8)] with disp := lit [0, 63, 2047] }).map
    (fun t => (t.disp, t.getV vf, t.out.displayChanged)) = some (lit [], 0x01#8, false) := by decide

/-- S5's second draw: what was lit goes off, with a collision. -/
theorem test_drw_collision : (tick 0xD011 ((({ State.reset with disp := lit [0, 1, 2, 3, 4, 5, 6, 7] } : State).setI 0x300#16).writeBytes
    0x300 [0xFF#8])).map (fun t => (t.disp, t.getV vf, t.out.displayChanged)) = some (lit [], 0x01#8, true) := by decide

/-- Both edges at once: program P3's first draw, sprite rows 02 03 04 at (62, 31). -/
theorem test_drw_wraps : (tick 0xD343 (((regs [(0x3#4, 0x3E#8), (0x4#4, 0x1F#8)]).setI 0x300#16).writeBytes
    0x300 [0x02#8, 0x03#8, 0x04#8])).map (fun t => (t.disp, t.getV vf)) = some (lit [4, 5, 67, 1988], 0x00#8) := by decide

/-! ### Keypad and timers (section 2.6) -/

theorem test_skp : (tick 0xE29E { regs [(0x2#4, 0x07#8)] with keys := 0x0080#16 }).map (·.pc) = some 0x0204#16 := by decide
theorem test_skp_other_keys : (tick 0xE29E { regs [(0x2#4, 0x07#8)] with keys := 0xFF7F#16 }).map (·.pc) = some 0x0202#16 := by decide
theorem test_sknp : (tick 0xE2A1 (regs [(0x2#4, 0x07#8)])).map (·.pc) = some 0x0204#16 := by decide
theorem test_sknp_fault : faultOf (tick 0xE2A1 (regs [(0x2#4, 0xFF#8)])) = some (true, 5#3, 0x020000FF#32) := by decide

theorem test_ldDelay : (tick 0xF107 { State.reset with dt := 0x02#8 }).map (fun t => (t.getV 0x1#4, t.dt)) =
    some (0x02#8, 0x01#8) := by decide

theorem test_waitKey_waits : (tick 0xF30A { regs [(0x3#4, 0x55#8)] with dt := 0x03#8 }).map
    (fun t => (t.pc, t.getV 0x3#4, t.dt)) = some (0x0200#16, 0x55#8, 0x02#8) := by decide
theorem test_waitKey_lowest : (tick 0xF30A { State.reset with keys := 0x0480#16 }).map (fun t => (t.pc, t.getV 0x3#4)) =
    some (0x0202#16, 0x07#8) := by decide

theorem test_setDelay : (tick 0xF115 (regs [(0x1#4, 0x02#8)])).map (·.dt) = some 0x01#8 := by decide
theorem test_setSound_beeps : (tick 0xF118 (regs [(0x1#4, 0x01#8)])).map (fun t => (t.st, t.out.beep)) =
    some (0x00#8, true) := by decide
theorem test_setSound_no_beep : (tick 0xF118 (regs [(0x1#4, 0x03#8)])).map (fun t => (t.st, t.out.beep)) =
    some (0x02#8, false) := by decide

theorem test_key_edges : (keyUp 7 (keyDown 10 (keyDown 7 State.reset))).keys = 0x0400#16 := by decide

/-! ### Loads (section 2.8) -/

theorem test_load_program (rest : Memory) (draws : Nat) :
    (State.loaded rest (List.replicate 80 0x00#8) [0x12#8, 0x00#8] draws).readByte 0x200 = 0x12#8 := by
  rw [State.readByte_loaded, Memory.read_load _ _ _ (by decide)]
  rfl

theorem test_load_font_79 (draws : Nat) : resetLoad [] (List.replicate 79 0x00#8) [] draws = .fault .loadError := by
  rw [resetLoad, if_pos (by simp)]

/-! ### Witnesses: concrete states and operands that meet the hypotheses of each obligation that has any, at the boundaries
of their ranges -/

/-- The reset state about to run a word. -/
def ready (w : Nat) : State := State.reset.withFetchWord 16 w

/-- The reset state with a stack pointer, and an entry at the top that is not 0. -/
def stacked (sp : Fin 17) : State := { State.reset with sp := sp, stack := Vector.replicate 16 0x0206#16 }

theorem witness_EncodeOfDecodeIsTheWord : decodeWord 0x8126#16 = some (.shr 0x1#4 0x2#4) := by decide

theorem witness_DispatchAgreesWithOpcodeMap :
    decodeWord 0x8126#16 = some (.shr 0x1#4 0x2#4) ∧ (Instr.shr 0x1#4 0x2#4).row ∈ opcodeRows := by decide

theorem witness_FetchedWordIsRebuiltFromItsFields : ({ State.reset with pc := 0x0FFE#16 } : State).pc.toNat ≤ 0xFFE := by decide

theorem witness_StepRunsDecodedInstruction :
    (ready 0x7101).halt = false ∧ (ready 0x7101).pc.toNat ≤ 0xFFE ∧
    decodeWord (wordOfBytes ((ready 0x7101).readByte (ready 0x7101).pc.toNat)
      ((ready 0x7101).readByte ((ready 0x7101).pc.toNat + 1))) = some (.addImm 0x1#4 0x01#8) ∧
    ∃ t, exec (.addImm 0x1#4 0x01#8) (ready 0x7101).clearOut = .next t :=
  ⟨by decide, by decide, by decide, _, rfl⟩

theorem witness_UnknownOpcodeIsSkippedAndReported :
    State.reset.halt = false ∧ State.reset.fetchWord = some 0x0000#16 ∧ decodeWord 0x0000#16 = none := by decide

theorem witness_FetchPastMemoryFaults :
    ({ State.reset with pc := 0x0FFF#16 } : State).halt = false ∧ 0xFFE < ({ State.reset with pc := 0x0FFF#16 } : State).pc.toNat := by
  decide

theorem witness_HaltedCoreDoesNothing :
    (State.reset.faulted .stackUnderflow 0).halt = true ∧
    ∃ t, applyEvent (State.reset.faulted .stackUnderflow 0) (.keyDown 3) = .next t := ⟨rfl, _, rfl⟩

/-- The first clause, on the tick that makes the sound timer reach 0. -/
theorem witness_TimersCountDownAtTheEndOfATick :
    { ready 0x1200 with st := 0x01#8 }.halt = false ∧ { ready 0x1200 with st := 0x01#8 }.fetchWord = some 0x1200#16 ∧
    ∃ u, execWord 0x1200#16 { ready 0x1200 with st := 0x01#8 }.clearOut = .next u ∧ u.halt = false :=
  ⟨by decide, by decide, _, rfl, by decide⟩

/-- The second clause: a tick that faults, from timers that are not 0. -/
theorem witness_TimersCountDownAtTheEndOfATick_fault :
    (tick 0x00EE { State.reset with dt := 0x05#8, st := 0x01#8 }).map (·.halt) = some true := by decide

/-- A tick with no fault, and one for each row of the table. -/
theorem witness_TicksFaultExactlyAsTheTableSays :
    (State.reset.halt = false ∧ State.reset.tableFault = none) ∧
    ({ ready 0x2300 with sp := 16 }.halt = false ∧ { ready 0x2300 with sp := 16 }.tableFault = some (.stackOverflow, 16)) ∧
    ((ready 0x00EE).halt = false ∧ (ready 0x00EE).tableFault = some (.stackUnderflow, 0)) ∧
    ({ State.reset with pc := 0x0FFF#16 }.halt = false ∧
      { State.reset with pc := 0x0FFF#16 }.tableFault = some (.fetchOutOfRange, 0xFFF)) ∧
    (((ready 0xF033).setI 0x0FFE#16).halt = false ∧ ((ready 0xF033).setI 0x0FFE#16).tableFault = some (.dataOutOfRange, 4096)) ∧
    (((ready 0xE29E).setV 0x2#4 0x10#8).halt = false ∧
      ((ready 0xE29E).setV 0x2#4 0x10#8).tableFault = some (.keyIndexOutOfRange, 16)) := by decide

theorem witness_JumpTargets :
    (∃ t, exec (.jp 0xFFF#12) State.reset = .next t) ∧ (∃ t, exec (.jpV0 0xFFF#12) (regs [(0x0#4, 0xFF#8)]) = .next t) :=
  ⟨⟨_, rfl⟩, ⟨_, rfl⟩⟩

theorem witness_CallPushesTheFollowingAddress : (stacked 0).sp.val = (0 : Fin 16).val ∧ (stacked 15).sp.val = (15 : Fin 16).val := by
  decide

theorem witness_ReturnPopsTheTopEntry :
    (stacked 1).sp.val = (0 : Fin 16).val + 1 ∧ (stacked 16).sp.val = (15 : Fin 16).val + 1 := by decide

theorem witness_StackOverflowAndUnderflowFault : (stacked 16).sp.val = 16 ∧ (stacked 0).sp.val = 0 := by decide

theorem witness_ReturnAfterCallComesBack : (stacked 0).sp.val < 16 ∧ (stacked 15).sp.val < 16 := by decide

/-- Also of ShiftResults. -/
theorem witness_AddAndSubtractResults : (0x0#4 : Reg) ≠ vf ∧ (0xE#4 : Reg) ≠ vf := by decide

theorem witness_RandomByteUnderTheMask : (0x0F#8 : Byte).getLsbD 4 = false ∧ (0x0F#8 : Byte).getLsbD 7 = false := by decide

theorem witness_BcdStoresTheDigits :
    ((regs [(0x0#4, 0xEA#8)]).setI 0x0FFD#16).mem.wf ∧ ((regs [(0x0#4, 0xEA#8)]).setI 0x0FFD#16).i.toNat ≤ 0xFFD :=
  ⟨test_reset_memory_canonical, by decide⟩

/-- The whole register file at the end of memory; also of LdmLoadsTheRegisters and of the second clause of FrameOfStores. -/
theorem witness_StmStoresTheRegisters :
    ((regs [(0xF#4, 0x11#8)]).setI 0x0FF0#16).mem.wf ∧ ((regs [(0xF#4, 0x11#8)]).setI 0x0FF0#16).i.toNat + (0xF#4 : Reg).toNat ≤ 4095 :=
  ⟨test_reset_memory_canonical, by decide⟩

theorem witness_LdmLoadsTheRegisters :
    ((State.reset.setI 0x0FFF#16).writeBytes 0xFFF [0x07#8]).i.toNat + (0x0#4 : Reg).toNat ≤ 4095 := by decide

theorem witness_DataPastMemoryFaults :
    4095 < (State.reset.setI 0x0FFE#16).i.toNat + 2 ∧
    4095 < (State.reset.setI 0x0FF1#16).i.toNat + (0xF#4 : Reg).toNat ∧
    4095 < (State.reset.setI 0xFFFF#16).i.toNat + (0x0#4 : Reg).toNat ∧
    0 < (0x1#4 : Nibble).toNat ∧ 4095 < (State.reset.setI 0x1000#16).i.toNat + (0x1#4 : Nibble).toNat - 1 ∧
    (0x0#4 : Nibble).toNat = 0 := by decide

theorem witness_StmThenLdmRestoresTheRegisters :
    ((regs [(0x3#4, 0xEF#8)]).setI 0x0300#16).mem.wf ∧ ((regs [(0x3#4, 0xEF#8)]).setI 0x0300#16).i.toNat + (0x3#4 : Reg).toNat ≤ 4095 ∧
    ∃ t, exec (.stm 0x3#4) ((regs [(0x3#4, 0xEF#8)]).setI 0x0300#16) = .next t ∧
      ∃ t' : State, t'.mem = t.mem ∧ t'.i = ((regs [(0x3#4, 0xEF#8)]).setI 0x0300#16).i ∧ t'.getV 0x3#4 = 0x00#8 :=
  ⟨test_reset_memory_canonical, by decide, _, rfl, { State.reset with mem := _, i := 0x0300#16 }, rfl, rfl, by decide⟩

/-- Program P6: STM V1 at 0x20A, then a fetch from there. -/
theorem witness_StoredBytesAreFetched :
    ((regs [(0x0#4, 0x12#8), (0x1#4, 0x0A#8)]).setI 0x020A#16).mem.wf ∧
    ((regs [(0x0#4, 0x12#8), (0x1#4, 0x0A#8)]).setI 0x020A#16).i.toNat + (0x1#4 : Reg).toNat ≤ 4095 ∧
    (0x0#4 : Reg).toNat < (0x1#4 : Reg).toNat ∧
    ∃ t, exec (.stm 0x1#4) ((regs [(0x0#4, 0x12#8), (0x1#4, 0x0A#8)]).setI 0x020A#16) = .next t ∧
      ∃ t' : State, t'.mem = t.mem ∧
        t'.pc.toNat = ((regs [(0x0#4, 0x12#8), (0x1#4, 0x0A#8)]).setI 0x020A#16).i.toNat + (0x0#4 : Reg).toNat :=
  ⟨test_reset_memory_canonical, by decide, by decide, _, rfl, { State.reset with mem := _, pc := 0x020A#16 }, rfl, by decide⟩

/-- No row at any I, one row at the last byte, 15 rows that end there; also of FrameOfDisplayInstructions. -/
theorem witness_DrawFlipsTheCoveredPixels :
    ((0x0#4 : Nibble).toNat = 0 ∨ (State.reset.setI 0xFFFF#16).i.toNat + (0x0#4 : Nibble).toNat - 1 ≤ 4095) ∧
    ((0x1#4 : Nibble).toNat = 0 ∨ (State.reset.setI 0x0FFF#16).i.toNat + (0x1#4 : Nibble).toNat - 1 ≤ 4095) ∧
    ((0xF#4 : Nibble).toNat = 0 ∨ (State.reset.setI 0x0FF1#16).i.toNat + (0xF#4 : Nibble).toNat - 1 ≤ 4095) := by decide

/-- S5, and a sprite whose row number VF the first draw overwrites: the second draw takes it from another register. -/
theorem witness_DrawingTwiceRestoresTheDisplay :
    ((0x1#4 : Nibble).toNat = 0 ∨ ((regs [(0x2#4, 0x03#8), (0xF#4, 0x03#8)]).setI 0x0300#16).i.toNat + (0x1#4 : Nibble).toNat - 1 ≤ 4095) ∧
    ∃ t, exec (.drw 0x0#4 0xF#4 0x1#4) ((regs [(0x2#4, 0x03#8), (0xF#4, 0x03#8)]).setI 0x0300#16) = .next t ∧
      t.getV 0x0#4 = ((regs [(0x2#4, 0x03#8), (0xF#4, 0x03#8)]).setI 0x0300#16).getV 0x0#4 ∧
      t.getV 0x2#4 = ((regs [(0x2#4, 0x03#8), (0xF#4, 0x03#8)]).setI 0x0300#16).getV 0xF#4 :=
  ⟨by decide, _, rfl, by decide, by decide⟩

/-- Also of the second clause of FrameOfJumpsAndSkips. -/
theorem witness_KeySkips :
    ((regs [(0x2#4, 0x00#8)]).getV 0x2#4).toNat = (0 : Fin 16).val ∧ ((regs [(0x2#4, 0x0F#8)]).getV 0x2#4).toNat = (15 : Fin 16).val := by
  decide

theorem witness_KeyIndexAboveFifteenFaults :
    15 < ((regs [(0x2#4, 0x10#8)]).getV 0x2#4).toNat ∧ 15 < ((regs [(0x2#4, 0xFF#8)]).getV 0x2#4).toNat := by decide

theorem witness_ReadDelayTimer :
    RunsAt { ready 0xF107 with dt := 0x02#8 } (.ldDelay 0x1#4) ∧
    ∃ t, exec (.ldDelay 0x1#4) { ready 0xF107 with dt := 0x02#8 } = .next t :=
  ⟨⟨by decide, by decide⟩, _, rfl⟩

/-- No key; a key that is the only one, at either end; a wait in a running core. -/
theorem witness_WaitForKey :
    (State.reset.keys = 0x0000#16) ∧
    ((0x0001#16).getLsbD (0 : Fin 16).val = true ∧ ∀ j, j < (0 : Fin 16).val → (0x0001#16).getLsbD j = false) ∧
    ((0x8000#16).getLsbD (15 : Fin 16).val = true ∧ ∀ j, j < (15 : Fin 16).val → (0x8000#16).getLsbD j = false) ∧
    RunsAt (ready 0xF30A) (.waitKey 0x3#4) ∧ (ready 0xF30A).keys = 0x0000#16 :=
  ⟨rfl, by decide, by decide, ⟨by decide, by decide⟩, by decide⟩

theorem witness_SetTimers : RunsAt ((ready 0xF115).setV 0x1#4 0x02#8) (.setDelay 0x1#4) ∧
    RunsAt ((ready 0xF118).setV 0x1#4 0x03#8) (.setSound 0x1#4) ∧ ∃ t, exec (.stm 0xF#4) State.reset = .next t :=
  ⟨⟨by decide, by decide⟩, ⟨by decide, by decide⟩, _, rfl⟩

theorem witness_KeyEdgesChangeOneBit : 0 < 16 ∧ 15 < 16 := by decide

theorem witness_FrameOfRegisterInstructions :
    Instr.waitKey 0x3#4 ∈ [.ldImm 0x3#4 0x00#8, .addImm 0x3#4 0x00#8, .ldReg 0x3#4 0x0#4, .orReg 0x3#4 0x0#4,
      .andReg 0x3#4 0x0#4, .xorReg 0x3#4 0x0#4, .ldDelay 0x3#4, .waitKey 0x3#4] ∧
    Instr.shl 0xF#4 0x0#4 ∈ [.addReg 0xF#4 0x0#4, .subReg 0xF#4 0x0#4, .shr 0xF#4 0x0#4, .subn 0xF#4 0x0#4, .shl 0xF#4 0x0#4] ∧
    (State.reset.setI 0x0FF0#16).i.toNat + (0xF#4 : Reg).toNat ≤ 4095 := by decide

theorem witness_FrameOfJumpsAndSkips :
    Instr.jpV0 0x300#12 ∈ [.jp 0x300#12, .jpV0 0x300#12, .seImm 0x0#4 0x00#8, .sneImm 0x0#4 0x00#8, .seReg 0x0#4 0x0#4,
      .sneReg 0x0#4 0x0#4] ∧
    Instr.sknp 0x2#4 ∈ [.skp 0x2#4, .sknp 0x2#4] ∧ ((regs [(0x2#4, 0x0F#8)]).getV 0x2#4).toNat ≤ 15 := by decide

theorem witness_FrameOfCallAndReturn : (stacked 15).sp.val < 16 ∧ 0 < (stacked 1).sp.val := by decide

theorem witness_FrameOfIndexInstructions :
    Instr.font 0x4#4 ∈ [.ldIndex 0x2F0#12, .addIndex 0x4#4, .font 0x4#4] := by decide

theorem witness_FrameOfStores :
    (State.reset.setI 0x0FFD#16).mem.wf ∧ (State.reset.setI 0x0FFD#16).i.toNat + 2 ≤ 4095 ∧
    effAddr (State.reset.setI 0x0FFD#16).i 0 = 0xFFD ∧
    (State.reset.setI 0x0FFD#16).i.toNat + (0x2#4 : Reg).toNat ≤ 4095 :=
  ⟨test_reset_memory_canonical, by decide, by decide, by decide⟩

/-- Each clause: an execution that does change the piece of state. -/
theorem witness_OnlyTheNamedInstructionsWrite :
    (∃ t, exec (.setDelay 0x1#4) (regs [(0x1#4, 0x02#8)]) = .next t ∧ t.dt ≠ 0x00#8) ∧
    (∃ t, exec (.setSound 0x1#4) (regs [(0x1#4, 0x02#8)]) = .next t ∧ t.st ≠ 0x00#8) ∧
    (∃ t, exec (.ldIndex 0x2F0#12) State.reset = .next t ∧ t.i ≠ State.reset.i) ∧
    (∃ t, exec .cls { State.reset with disp := lit [0] } = .next t ∧ t.disp ≠ lit [0]) ∧
    (∃ t, exec (.bcd 0x0#4) ((regs [(0x0#4, 0xEA#8)]).setI 0x0300#16) = .next t ∧ t.mem ≠ []) ∧
    (∃ t, exec (.call 0x300#12) State.reset = .next t ∧ t.sp ≠ State.reset.sp) ∧
    (∃ t, exec (.rnd 0x0#4 0xFF#8) State.reset = .next t ∧ t.draws ≠ State.reset.draws) :=
  ⟨⟨_, rfl, by decide⟩, ⟨_, rfl, by decide⟩, ⟨_, rfl, by decide⟩, ⟨_, rfl, by decide⟩, ⟨_, rfl, by decide⟩, ⟨_, rfl, by decide⟩,
    ⟨_, rfl, by decide⟩⟩

/-- VF written as a flag. -/
theorem witness_RegistersChangeOnlyUnderTheirWriters :
    ∃ t, exec (.addReg 0x1#4 0x2#4) (regs [(0x1#4, 0xFF#8), (0x2#4, 0x01#8)]) = .next t ∧
      t.getV vf ≠ (regs [(0x1#4, 0xFF#8), (0x2#4, 0x01#8)]).getV vf := ⟨_, rfl, by decide⟩

/-- A state other than reset: one entry on the stack, timers running, a byte in memory. -/
theorem witness_EveryTickKeepsTheInvariant :
    State.Inv { State.reset with sp := 1, dt := 0x05#8, mem := [(0x200, 0x12#8)] } ∧
    ∃ t, step { State.reset with sp := 1, dt := 0x05#8, mem := [(0x200, 0x12#8)] } = .next t := by
  refine ⟨⟨⟨List.pairwise_singleton _ _, by decide⟩, by decide, ?_, fun _ => ⟨rfl, rfl⟩, by simp [State.reset]⟩, _, rfl⟩
  intro k hk
  have : k = 0 := by ext; simp at hk; omega
  subst this
  decide

/-- A halted state. -/
theorem witness_EveryTickKeepsTheInvariant_halted : (State.reset.faulted .stackUnderflow 0).Inv := by
  refine ⟨test_reset_memory_canonical, by decide, ?_, by simp, fun _ => by decide⟩
  intro k hk
  exact absurd hk (Nat.not_lt_zero _)

theorem witness_EveryRunKeepsTheInvariant :
    State.Inv (State.reset.faulted .stackUnderflow 0) ∧
    ∃ t, runEvents (State.reset.faulted .stackUnderflow 0) [.keyDown 3, .tick, .keyUp 3] = .next t :=
  ⟨witness_EveryTickKeepsTheInvariant_halted, _, rfl⟩

/-- States that do differ in a dead entry, the one at SP. -/
theorem witness_DeadStackEntriesAreUnobservable :
    SameButDeadStack (stacked 1) { stacked 1 with stack := (stacked 1).stack.set 1 0xBEEF#16 } ∧
    stacked 1 ≠ { stacked 1 with stack := (stacked 1).stack.set 1 0xBEEF#16 } := by
  refine ⟨⟨rfl, ?_⟩, by decide⟩
  intro k hk
  have : k = 0 := by ext; simp [stacked] at hk; omega
  subst this
  decide

theorem witness_ParkedCoreStaysAsItIs : (ready 0x1200).Parked :=
  ⟨by decide, by decide, by decide, 0x200#12, by decide, by decide⟩

theorem witness_ResetLoadGivesTheResetState :
    (List.replicate 80 0x00#8).length = 80 ∧ (List.replicate 3584 0x00#8).length ≤ 3584 ∧
    ((List.replicate 79 0x00#8).length ≠ 80 ∨ 3584 < ([] : List Byte).length) ∧
    ((List.replicate 80 0x00#8).length ≠ 80 ∨ 3584 < (List.replicate 3585 0x00#8).length) := by
  simp only [List.length_replicate]; simp

end Sys2Proof.Tests
end

section
/-! PROOFS. The skips against an immediate (spec 41_control_flow.md R113, R114): what the opcode-table decoder reads from
the word of an encoded instruction, and where a conditional skip leaves PC. -/

namespace Sys2Proof

/-- Splitting a word into its two bytes and decoding them (R70) is decoding the word. -/
theorem decodeTableWord_toNat (w : Word) : decodeTableWord 16 w.toNat = decodeWord w := by
  have hw : BitVec.ofNat 16 (w.toNat % 2 ^ 16) = w := by
    rw [Nat.mod_eq_of_lt w.isLt, BitVec.ofNat_toNat, BitVec.setWidth_eq]
  rw [decodeTableWord, hw, decode, Machine.wordOfBytes_split]
  cases decodeWord w <;> rfl

/-- The fields of format `XI` as digits of the word's number (R71, R72). -/
theorem toNat_encodeXI (f x : Nibble) (nn : Byte) :
    (encodeXI f x nn).toNat = 4096 * f.toNat + 256 * x.toNat + nn.toNat := by
  rw [encodeXI, BitVec.toNat_append, BitVec.toNat_append, ← Nat.shiftLeft_add_eq_or_of_lt nn.isLt,
    ← Nat.shiftLeft_add_eq_or_of_lt x.isLt, Nat.shiftLeft_eq, Nat.shiftLeft_eq]
  omega

/-- A format `XI` number, read by the opcode-table decoder, is the encoded word, read by the dispatch. -/
theorem decodeTableWord_XI (f x : Nibble) (nn : Byte) :
    decodeTableWord 16 (4096 * f.toNat + 256 * x.toNat + nn.toNat) = decodeWord (encodeXI f x nn) := by
  rw [← toNat_encodeXI, decodeTableWord_toNat]

@[simp] theorem decodeWord_encodeXI_three (x : Reg) (nn : Byte) :
    decodeWord (encodeXI 0x3#4 x nn) = some (.seImm x nn) := by
  simp [decodeWord]

@[simp] theorem decodeWord_encodeXI_four (x : Reg) (nn : Byte) :
    decodeWord (encodeXI 0x4#4 x nn) = some (.sneImm x nn) := by
  simp [decodeWord]

end Sys2Proof

namespace Sys2Proof.Machine

theorem exec_seImm (x : Reg) (nn : Byte) (s : State) :
    exec (.seImm x nn) s = .next (s.skipIf (s.getV x == nn)) := rfl

theorem exec_sneImm (x : Reg) (nn : Byte) (s : State) :
    exec (.sneImm x nn) s = .next (s.skipIf (s.getV x != nn)) := rfl

/-- An instruction that answers a conditional skip sets PC and nothing else: past one word more where the condition holds. -/
theorem setsPc_of_exec_eq_skipIf {i : Instr} {s : State} {c : Bool} (h : exec i s = .next (s.skipIf c)) :
    SetsPc i s (if c then s.pc + 2#16 + 2#16 else s.pc + 2#16) :=
  ⟨_, h, s.skipIf_pc c, fun r _ => s.getV_skipIf c r, s.skipIf_halt c⟩

theorem setsPc_seImm (s : State) (x : Reg) (nn : Byte) :
    SetsPc (.seImm x nn) s (if s.getV x = nn then s.pc + 2#16 + 2#16 else s.pc + 2#16) := by
  simpa using setsPc_of_exec_eq_skipIf (exec_seImm x nn s)

theorem setsPc_sneImm (s : State) (x : Reg) (nn : Byte) :
    SetsPc (.sneImm x nn) s (if s.getV x = nn then s.pc + 2#16 else s.pc + 2#16 + 2#16) := by
  simpa using setsPc_of_exec_eq_skipIf (exec_sneImm x nn s)

end Sys2Proof.Machine

open Sys2Proof Sys2Proof.Machine

/-- Settles O15: the decoder's half by the fields of format `XI`, the meaning's half by what a conditional skip writes. -/
theorem immediateSkips : Obligations.ImmediateSkips := by
  intro s x nn
  refine ⟨⟨?_, setsPc_seImm s x nn⟩, ?_, setsPc_sneImm s x nn⟩
  · exact (decodeTableWord_XI 0x3#4 x nn).trans (decodeWord_encodeXI_three x nn)
  · exact (decodeTableWord_XI 0x4#4 x nn).trans (decodeWord_encodeXI_four x nn)
end

section
/-! PROOFS. Register loads and logic (spec 42_alu.md R130 to R135): how the opcode-table decoder reads a format `XY` number,
and what an instruction does that puts one byte in `V[x]`. -/

namespace Sys2Proof

/-- The fields of format `XY` as digits of the word's number (R71, R72). -/
theorem toNat_encodeXY (f x y n : Nibble) :
    (encodeXY f x y n).toNat = 4096 * f.toNat + 256 * x.toNat + 16 * y.toNat + n.toNat := by
  rw [encodeXY, BitVec.toNat_append, BitVec.toNat_append, BitVec.toNat_append, ← Nat.shiftLeft_add_eq_or_of_lt n.isLt,
    ← Nat.shiftLeft_add_eq_or_of_lt y.isLt, ← Nat.shiftLeft_add_eq_or_of_lt x.isLt, Nat.shiftLeft_eq, Nat.shiftLeft_eq,
    Nat.shiftLeft_eq]
  omega

/-- A format `XY` number, read by the opcode-table decoder, is the encoded word, read by the dispatch. -/
theorem decodeTableWord_XY (f x y n : Nibble) :
    decodeTableWord 16 (4096 * f.toNat + 256 * x.toNat + 16 * y.toNat + n.toNat) = decodeWord (encodeXY f x y n) := by
  rw [← toNat_encodeXY, decodeTableWord_toNat]

@[simp] theorem decodeWord_encodeXI_six (x : Reg) (nn : Byte) :
    decodeWord (encodeXI 0x6#4 x nn) = some (.ldImm x nn) := by
  simp [decodeWord]

@[simp] theorem decodeWord_encodeXI_seven (x : Reg) (nn : Byte) :
    decodeWord (encodeXI 0x7#4 x nn) = some (.addImm x nn) := by
  simp [decodeWord]

@[simp] theorem decodeWord_encodeXY_eight (x y : Reg) (n : Nibble) :
    decodeWord (encodeXY 0x8#4 x y n) = decodeFamily8 x y n := by
  simp [decodeWord]

/-- A number of family 0x8, its function nibble added to the family's base, is dispatched on that nibble (R73). -/
theorem decodeTableWord_family8 (x y : Reg) (n : Nibble) :
    decodeTableWord 16 (0x8000 + n.toNat + 256 * x.toNat + 16 * y.toNat) = decodeFamily8 x y n := by
  have hdigits : 0x8000 + n.toNat + 256 * x.toNat + 16 * y.toNat =
      4096 * (0x8#4).toNat + 256 * x.toNat + 16 * y.toNat + n.toNat := by
    rw [show (0x8#4).toNat = 8 from rfl]; omega
  rw [hdigits, decodeTableWord_XY, decodeWord_encodeXY_eight]

end Sys2Proof

namespace Sys2Proof.Machine

theorem exec_ldImm (x : Reg) (nn : Byte) (s : State) : exec (.ldImm x nn) s = .next (s.advance.setV x nn) := rfl

theorem exec_addImm (x : Reg) (nn : Byte) (s : State) :
    exec (.addImm x nn) s = .next (s.advance.setV x (s.getV x + nn)) := rfl

theorem exec_ldReg (x y : Reg) (s : State) : exec (.ldReg x y) s = .next (s.advance.setV x (s.getV y)) := rfl

theorem exec_orReg (x y : Reg) (s : State) :
    exec (.orReg x y) s = .next (s.advance.setV x (s.getV x ||| s.getV y)) := rfl

theorem exec_andReg (x y : Reg) (s : State) :
    exec (.andReg x y) s = .next (s.advance.setV x (s.getV x &&& s.getV y)) := rfl

theorem exec_xorReg (x y : Reg) (s : State) :
    exec (.xorReg x y) s = .next (s.advance.setV x (s.getV x ^^^ s.getV y)) := rfl

/-- An instruction that answers its state with PC advanced and `V[x]` set writes that one register and raises no fault
(R92, R97). -/
theorem writesRegister_of_exec_eq_setV {i : Instr} {s : State} {x : Reg} {b : Byte}
    (h : exec i s = .next (s.advance.setV x b)) : WritesRegister i s x b :=
  ⟨_, h, s.advance.getV_setV_same x b, fun _ hr => s.advance.getV_setV_ne hr b, rfl, rfl⟩

/-- The sum the adder gives is the sum of the two numbers modulo 256 (R131). -/
theorem writesRegister_addImm (s : State) (x : Reg) (nn : Byte) :
    WritesRegister (.addImm x nn) s x (BitVec.ofNat 8 (((s.getV x).toNat + nn.toNat) % 256)) := by
  have hsum : s.getV x + nn = BitVec.ofNat 8 (((s.getV x).toNat + nn.toNat) % 256) :=
    BitVec.eq_of_toNat_eq (by simp)
  exact hsum ▸ writesRegister_of_exec_eq_setV (exec_addImm x nn s)

end Sys2Proof.Machine

open Sys2Proof Sys2Proof.Machine

/-- Settles O22: the decoder's half by the fields of formats `XI` and `XY`, the meaning's half by the one register each of
the six instructions sets. -/
theorem loadAddImmediateAndLogicResults : Obligations.LoadAddImmediateAndLogicResults := by
  intro s x y nn
  refine ⟨⟨?ldImm, writesRegister_of_exec_eq_setV (exec_ldImm x nn s)⟩, ⟨?addImm, writesRegister_addImm s x nn⟩,
    ⟨?ldReg, writesRegister_of_exec_eq_setV (exec_ldReg x y s)⟩,
    ⟨?orReg, writesRegister_of_exec_eq_setV (exec_orReg x y s)⟩,
    ⟨?andReg, writesRegister_of_exec_eq_setV (exec_andReg x y s)⟩,
    ⟨?xorReg, writesRegister_of_exec_eq_setV (exec_xorReg x y s)⟩⟩
  case ldImm => exact (decodeTableWord_XI 0x6#4 x nn).trans (decodeWord_encodeXI_six x nn)
  case addImm => exact (decodeTableWord_XI 0x7#4 x nn).trans (decodeWord_encodeXI_seven x nn)
  case ldReg => exact decodeTableWord_family8 x y 0x0#4
  case orReg => exact decodeTableWord_family8 x y 0x1#4
  case andReg => exact decodeTableWord_family8 x y 0x2#4
  case xorReg => exact decodeTableWord_family8 x y 0x3#4
end

section
/-! PROOFS. The index register load (spec 43_index_memory.md R150): how the opcode-table decoder reads a format `A` number,
and that the meaning is one write to I. -/

namespace Sys2Proof

/-- The fields of format `A` as digits of the word's number (R71, R72). -/
theorem toNat_encodeA (f : Nibble) (nnn : Addr12) : (encodeA f nnn).toNat = 4096 * f.toNat + nnn.toNat := by
  rw [encodeA, BitVec.toNat_append, ← Nat.shiftLeft_add_eq_or_of_lt nnn.isLt, Nat.shiftLeft_eq]
  omega

/-- A format `A` number, read by the opcode-table decoder, is the encoded word, read by the dispatch. -/
theorem decodeTableWord_A (f : Nibble) (nnn : Addr12) :
    decodeTableWord 16 (4096 * f.toNat + nnn.toNat) = decodeWord (encodeA f nnn) := by
  rw [← toNat_encodeA, decodeTableWord_toNat]

@[simp] theorem decodeWord_encodeA_ten (nnn : Addr12) : decodeWord (encodeA 0xA#4 nnn) = some (.ldIndex nnn) := by
  simp [decodeWord]

end Sys2Proof

namespace Sys2Proof.Machine

theorem exec_ldIndex (nnn : Addr12) (s : State) : exec (.ldIndex nnn) s = .next (s.advance.setI (zextAddr nnn)) := rfl

end Sys2Proof.Machine

open Sys2Proof Sys2Proof.Machine

/-- Settles O26: the decoder's half by the fields of format `A`, the meaning's half by the one write to I, whose value is
below 0x1000 because it is a 12-bit number. -/
theorem loadIndexResult : Obligations.LoadIndexResult := by
  intro s nnn
  have hvalue : (zextAddr nnn).toNat = nnn.toNat := BitVec.toNat_setWidth_of_le (by decide)
  have hbound : nnn.toNat ≤ 0xFFF := Nat.le_of_lt_succ nnn.isLt
  have hregs : SameRegs (fun _ => False) s (s.advance.setI (zextAddr nnn)) := fun r _ => s.getV_advance r
  refine ⟨?decodes, _, exec_ldIndex nnn s, hvalue, hvalue.trans_le hbound, s.advance_pc, hregs, s.advance_halt⟩
  case decodes => exact (decodeTableWord_A 0xA#4 nnn).trans (decodeWord_encodeA_ten nnn)
end

section
/-! PROOFS. The delay timer read (spec 45_keypad_timers.md R182), and with it what the timer and key instructions share: how
the opcode-table decoder reads a number of family 0xF, and what the tick of an instruction that completes answers. -/

namespace Sys2Proof

@[simp] theorem decodeWord_encodeXI_fifteen (x : Reg) (nn : Byte) :
    decodeWord (encodeXI 0xF#4 x nn) = decodeFamilyF x nn := by
  simp [decodeWord]

/-- A number of family 0xF, its function byte added to the family's base, is dispatched on that byte (R73). -/
theorem decodeTableWord_familyF (x : Reg) (nn : Byte) :
    decodeTableWord 16 (0xF000 + nn.toNat + 256 * x.toNat) = decodeFamilyF x nn := by
  have hdigits : 0xF000 + nn.toNat + 256 * x.toNat = 4096 * (0xF#4).toNat + 256 * x.toNat + nn.toNat := by
    rw [show (0xF#4).toNat = 15 from rfl]; omega
  rw [hdigits, decodeTableWord_XI, decodeWord_encodeXI_fifteen]

end Sys2Proof

namespace Sys2Proof.Machine

/-- The tick that runs an instruction which raises no fault: the meaning on cleared outputs, then the timer phase (R90). -/
theorem step_of_runsAt {i : Instr} {s u : State} (hrun : RunsAt s i) (hdecode : decodeWord (encode i) = some i)
    (hexec : exec i s.clearOut = .next u) (hhalt : u.halt = s.halt) : step s = .next (timerPhase u) := by
  obtain ⟨hrunning, hfetch⟩ := hrun
  obtain ⟨h, -⟩ | ⟨-, h, -⟩ | ⟨w, -, hw, hstep⟩ := step_cases s
  · simp [hrunning] at h
  · simp [hfetch] at h
  · obtain rfl : encode i = w := Option.some.inj (hfetch.symm.trans hw)
    rw [hstep, execWord, hdecode]
    simp only [hexec, endTick, hhalt, hrunning, Bool.false_eq_true, if_false]

theorem exec_ldDelay (x : Reg) (s : State) : exec (.ldDelay x) s = .next (s.advance.setV x s.dt) := rfl

theorem step_ldDelay {s : State} {x : Reg} (hrun : RunsAt s (.ldDelay x)) :
    step s = .next (timerPhase (s.clearOut.advance.setV x s.dt)) :=
  step_of_runsAt hrun (decodeWord_encodeXI_fifteen x 0x07#8) (exec_ldDelay x s.clearOut) rfl

end Sys2Proof.Machine

open Sys2Proof Sys2Proof.Machine

/-- Settles O39: the meaning is one register write of DT, and the tick puts the timer phase after it. -/
theorem readDelayTimer : Obligations.ReadDelayTimer := by
  intro s x
  refine ⟨decodeTableWord_familyF x 0x07#8, writesRegister_of_exec_eq_setV (exec_ldDelay x s), ?kept, ?tick⟩
  case kept =>
    rintro t ⟨⟩
    rfl
  case tick =>
    intro hrun
    exact ⟨_, step_ldDelay hrun, by simp, by simp⟩
end

section
/-! PROOFS. The wait for a key (spec 45_keypad_timers.md R183): with no key pressed the instruction changes nothing at all,
so its tick is the timer phase alone; with one pressed it writes the register. -/

namespace Sys2Proof.Machine

/-- The key that is pressed while no lower one is, is the one found. -/
theorem lowestKey_eq_some {keys : BitVec 16} {k : Nat} (hk : keys.getLsbD k = true)
    (hlower : ∀ j, j < k → keys.getLsbD j = false) : lowestKey keys = some k := by
  cases hfound : lowestKey keys with
  | none => simp [lowestKey_none_iff.mp hfound] at hk
  | some j =>
    obtain ⟨-, hj, hbelow⟩ := lowestKey_some hfound
    obtain h | rfl | h := Nat.lt_trichotomy j k
    · simp [hlower j h] at hj
    · rfl
    · simp [hbelow k h] at hk

theorem exec_waitKey (x : Reg) (s : State) : exec (.waitKey x) s = execWaitKey x s := rfl

/-- With no key pressed PC goes back to where it was, and nothing else was changed. -/
theorem exec_waitKey_of_no_key (x : Reg) {s : State} (hkeys : s.keys = 0x0000#16) : exec (.waitKey x) s = .next s := by
  have hpc : s.pcNext - 2#16 = s.pc := BitVec.add_sub_cancel s.pc 2#16
  rw [exec_waitKey, execWaitKey, lowestKey_none_iff.mpr hkeys, hpc]
  rfl

theorem exec_waitKey_of_key (x : Reg) {s : State} {k : Nat} (hkey : lowestKey s.keys = some k) :
    exec (.waitKey x) s = .next (s.advance.setV x (BitVec.ofNat 8 k)) := by
  rw [exec_waitKey, execWaitKey, hkey]

theorem step_waitKey_of_no_key {s : State} {x : Reg} (hrun : RunsAt s (.waitKey x)) (hkeys : s.keys = 0x0000#16) :
    step s = .next (timerPhase s.clearOut) :=
  step_of_runsAt hrun (decodeWord_encodeXI_fifteen x 0x0A#8) (exec_waitKey_of_no_key x hkeys) rfl

end Sys2Proof.Machine

open Sys2Proof Sys2Proof.Machine

/-- Settles O40: the two cases of the lowest pressed key; a waiting tick is the timer phase alone, after which the same
instruction stands at the same PC. -/
theorem waitForKey : Obligations.WaitForKey := by
  intro s x
  refine ⟨decodeTableWord_familyF x 0x0A#8, ?waits, ?takesKey, ?tick⟩
  case waits =>
    intro hkeys
    exact ⟨s, exec_waitKey_of_no_key x hkeys, rfl, fun _ _ => rfl, rfl⟩
  case takesKey =>
    intro k hk hlower
    exact writesRegister_of_exec_eq_setV (exec_waitKey_of_key x (lowestKey_eq_some hk hlower))
  case tick =>
    intro hrun hkeys
    exact ⟨_, step_waitKey_of_no_key hrun hkeys, rfl, fun _ _ => rfl, by simp, by simp, hrun⟩
end

section
/-! PROOFS. The timer loads (spec 45_keypad_timers.md R184, R185): how the timers stand after any number of timer phases, and
that no meaning reads ST. -/

namespace Sys2Proof.Machine

/-! ### Several timer phases (R187) -/

theorem dt_iterate_timerPhase (k : Nat) (s : State) : (timerPhase^[k] s).dt.toNat = s.dt.toNat - k := by
  induction k with
  | zero => rfl
  | succ k ih => rw [Function.iterate_succ_apply', State.timerPhase_dt, countDown_toNat, ih, Nat.sub_sub]

theorem st_iterate_timerPhase (k : Nat) (s : State) : (timerPhase^[k] s).st.toNat = s.st.toNat - k := by
  induction k with
  | zero => rfl
  | succ k ih => rw [Function.iterate_succ_apply', State.timerPhase_st, countDown_toNat, ih, Nat.sub_sub]

/-- The `k + 1`-th timer phase beeps exactly where ST was `k + 1`: it is the one that finds ST at 1. -/
theorem beep_iterate_timerPhase_succ (k : Nat) (s : State) :
    (timerPhase^[k + 1] s).out.beep = true ↔ s.st.toNat = k + 1 := by
  have hone : (timerPhase^[k + 1] s).out.beep = true ↔ (timerPhase^[k] s).st.toNat = 1 := by
    rw [Function.iterate_succ_apply', State.timerPhase_out, beq_iff_eq, ← BitVec.toNat_inj]
    rfl
  rw [hone, st_iterate_timerPhase]
  omega

/-! ### The two loads -/

theorem exec_setDelay (x : Reg) (s : State) : exec (.setDelay x) s = .next { s.advance with dt := s.getV x } := rfl

theorem exec_setSound (x : Reg) (s : State) : exec (.setSound x) s = .next { s.advance with st := s.getV x } := rfl

theorem step_setDelay {s : State} {x : Reg} (hrun : RunsAt s (.setDelay x)) :
    step s = .next (timerPhase { s.clearOut.advance with dt := s.getV x }) :=
  step_of_runsAt hrun (decodeWord_encodeXI_fifteen x 0x15#8) (exec_setDelay x s.clearOut) rfl

theorem step_setSound {s : State} {x : Reg} (hrun : RunsAt s (.setSound x)) :
    step s = .next (timerPhase { s.clearOut.advance with st := s.getV x }) :=
  step_of_runsAt hrun (decodeWord_encodeXI_fifteen x 0x18#8) (exec_setSound x s.clearOut) rfl

/-! ### No instruction reads ST (R185) -/

/-- Both answer a next state, and the two states differ at most in ST. -/
def SameButSound (r r' : Result) : Prop := ∃ t t', r = .next t ∧ r' = .next t' ∧ { t' with st := t.st } = t

theorem SameButSound.ite {c : Prop} [Decidable c] {a b a' b' : Result} (ha : SameButSound a a') (hb : SameButSound b b') :
    SameButSound (if c then a else b) (if c then a' else b') := by
  split
  · exact ha
  · exact hb

theorem sameButSound_raise (c : FaultCause) (d : Nat) (s : State) (b : Byte) :
    SameButSound (raise c d s) (raise c d { s with st := b }) :=
  ⟨_, _, rfl, rfl, rfl⟩

theorem State.writeBytes_with_st (s : State) (b : Byte) (a : Nat) (bs : List Byte) :
    ({ s with st := b } : State).writeBytes a bs = { s.writeBytes a bs with st := b } := by
  induction bs generalizing s a with
  | nil => rfl
  | cons c bs ih => exact ih (s.writeByte a c) (a + 1)

theorem State.loadRegs_with_st (s : State) (b : Byte) (a n : Nat) :
    ({ s with st := b } : State).loadRegs a n = { s.loadRegs a n with st := b } := by
  induction n with
  | zero => rfl
  | succ n ih => rw [State.loadRegs, ih]; rfl

theorem sameButSound_writeBytes (s : State) (b : Byte) (a : Nat) (bs : List Byte) :
    SameButSound (.next (s.writeBytes a bs)) (.next (({ s with st := b } : State).writeBytes a bs)) :=
  ⟨_, _, rfl, rfl, by rw [s.writeBytes_with_st]⟩

theorem sameButSound_loadRegs (s : State) (b : Byte) (a n : Nat) :
    SameButSound (.next (s.loadRegs a n)) (.next (({ s with st := b } : State).loadRegs a n)) :=
  ⟨_, _, rfl, rfl, by rw [s.loadRegs_with_st]⟩

theorem sameButSound_waitKey (x : Reg) (s : State) (b : Byte) :
    SameButSound (exec (.waitKey x) s) (exec (.waitKey x) { s with st := b }) := by
  cases hkey : lowestKey s.keys with
  | none =>
    have hkeys := lowestKey_none_iff.mp hkey
    exact ⟨_, _, exec_waitKey_of_no_key x hkeys, exec_waitKey_of_no_key x hkeys, rfl⟩
  | some k => exact ⟨_, _, exec_waitKey_of_key x hkey, exec_waitKey_of_key x hkey, rfl⟩

/-- Another value in ST changes nothing else of what an instruction answers: the conditions it tests and the values it writes
are the same. -/
theorem exec_sameButSound (i : Instr) (s : State) (b : Byte) : SameButSound (exec i s) (exec i { s with st := b }) := by
  cases i with
  | ret =>
    by_cases h : 0 < s.sp.val
    · exact ⟨_, _, dif_pos h, dif_pos h, rfl⟩
    · exact ⟨_, _, dif_neg h, dif_neg h, rfl⟩
  | call nnn =>
    by_cases h : s.sp.val < 16
    · exact ⟨_, _, dif_pos h, dif_pos h, rfl⟩
    · exact ⟨_, _, dif_neg h, dif_neg h, rfl⟩
  | skp x => exact .ite ⟨_, _, rfl, rfl, rfl⟩ (sameButSound_raise ..)
  | sknp x => exact .ite ⟨_, _, rfl, rfl, rfl⟩ (sameButSound_raise ..)
  | drw x y n => exact .ite ⟨_, _, rfl, rfl, rfl⟩ (sameButSound_raise ..)
  | bcd x => exact .ite (sameButSound_writeBytes ..) (sameButSound_raise ..)
  | stm x => exact .ite (sameButSound_writeBytes ..) (sameButSound_raise ..)
  | ldm x => exact .ite (sameButSound_loadRegs ..) (sameButSound_raise ..)
  | waitKey x => exact sameButSound_waitKey x s b
  | _ => exact ⟨_, _, rfl, rfl, rfl⟩

end Sys2Proof.Machine

open Sys2Proof Sys2Proof.Machine

/-- Settles O41: the loading tick is the load and one timer phase, so `k` further phases make `k + 1`; ST is read by no
meaning, instruction by instruction. -/
theorem setTimers : Obligations.SetTimers := by
  intro s x
  refine ⟨⟨decodeTableWord_familyF x 0x15#8, _, exec_setDelay x s, rfl, rfl, fun _ _ => rfl, rfl⟩, ?delayTick,
    ⟨decodeTableWord_familyF x 0x18#8, _, exec_setSound x s, rfl, rfl, fun _ _ => rfl, rfl⟩, ?soundTick, ?unread⟩
  case delayTick =>
    intro hrun
    refine ⟨_, step_setDelay hrun, fun k => ?_⟩
    rw [dt_iterate_timerPhase, State.timerPhase_dt, countDown_toNat]
  case soundTick =>
    intro hrun
    refine ⟨_, step_setSound hrun, fun k => ⟨?_, ?_⟩⟩
    · rw [st_iterate_timerPhase, State.timerPhase_st, countDown_toNat]
    · rw [← Function.iterate_succ_apply, beep_iterate_timerPhase_succ]
  case unread =>
    intro i b t ht
    obtain ⟨u, t', hu, ht', hsame⟩ := exec_sameButSound i s b
    obtain rfl : u = t := Host.Outcome.next.inj (hu.symm.trans ht)
    exact ⟨t', ht', hsame⟩
end

section
/-! PROOFS. Decoder, encoder and opcode map (spec 30_encoding.md R71 to R78): what the dispatch reads from each format, its
inverse, and the fields in which a row of the opcode map and the dispatch both speak. -/

namespace Sys2Proof

/-! ### What the dispatch gives on an encoded word -/

@[simp] theorem decodeWord_encodeA_one (nnn : Addr12) : decodeWord (encodeA 0x1#4 nnn) = some (.jp nnn) := by
  simp [decodeWord]

@[simp] theorem decodeWord_encodeA_two (nnn : Addr12) : decodeWord (encodeA 0x2#4 nnn) = some (.call nnn) := by
  simp [decodeWord]

@[simp] theorem decodeWord_encodeA_eleven (nnn : Addr12) : decodeWord (encodeA 0xB#4 nnn) = some (.jpV0 nnn) := by
  simp [decodeWord]

@[simp] theorem decodeWord_encodeXI_twelve (x : Reg) (nn : Byte) :
    decodeWord (encodeXI 0xC#4 x nn) = some (.rnd x nn) := by
  simp [decodeWord]

@[simp] theorem decodeWord_encodeXI_fourteen (x : Reg) (nn : Byte) :
    decodeWord (encodeXI 0xE#4 x nn) = decodeFamilyE x nn := by
  simp [decodeWord]

@[simp] theorem decodeWord_encodeXY_five (x y : Reg) (n : Nibble) :
    decodeWord (encodeXY 0x5#4 x y n) = if n = 0x0#4 then some (.seReg x y) else none := by
  simp [decodeWord]

@[simp] theorem decodeWord_encodeXY_nine (x y : Reg) (n : Nibble) :
    decodeWord (encodeXY 0x9#4 x y n) = if n = 0x0#4 then some (.sneReg x y) else none := by
  simp [decodeWord]

@[simp] theorem decodeWord_encodeXY_thirteen (x y : Reg) (n : Nibble) :
    decodeWord (encodeXY 0xD#4 x y n) = some (.drw x y n) := by
  simp [decodeWord]

/-- The two-level dispatch inverts the encoder: a second level is left only in families 0x8, 0xE and 0xF. -/
@[simp] theorem decodeWord_encode (i : Instr) : decodeWord (encode i) = some i := by
  cases i with
  | cls => rfl
  | ret => rfl
  | _ => simp [encode, decodeFamily8, decodeFamilyE, decodeFamilyF]

theorem decode_encodeBytes (i : Instr) (rest : List Byte) : decode (encodeBytes i ++ rest) = .ok (i, rest) := by
  simp [encodeBytes, decode, Machine.wordOfBytes_split]

/-! ### What a word is whose fields the dispatch has tested -/

section fields
variable {w : Word} {f n : Nibble}

theorem encodeA_of_family (hf : fieldFamily w = f) : encodeA f (fieldNNN w) = w := hf ▸ word_of_nnn w

theorem encodeXI_of_family (hf : fieldFamily w = f) : encodeXI f (fieldX w) (fieldNN w) = w := hf ▸ word_of_x_nn w

theorem encodeXY_of_fields (hf : fieldFamily w = f) (hn : fieldN w = n) : encodeXY f (fieldX w) (fieldY w) n = w :=
  hf ▸ hn ▸ word_of_nibbles w

end fields

theorem encode_of_decodeFamily0 {w : Word} {i : Instr} (h : decodeFamily0 w = some i) : encode i = w := by
  unfold decodeFamily0 at h
  split_ifs at h with h0 h1
  · cases h; exact h0.symm
  · cases h; exact h1.symm

theorem encode_of_decodeFamily8 {x y : Reg} {n : Nibble} {i : Instr} (h : decodeFamily8 x y n = some i) :
    encode i = encodeXY 0x8#4 x y n := by
  unfold decodeFamily8 at h
  split_ifs at h <;> (cases h; subst n; rfl)

theorem encode_of_decodeFamilyE {x : Reg} {nn : Byte} {i : Instr} (h : decodeFamilyE x nn = some i) :
    encode i = encodeXI 0xE#4 x nn := by
  unfold decodeFamilyE at h
  split_ifs at h <;> (cases h; subst nn; rfl)

theorem encode_of_decodeFamilyF {x : Reg} {nn : Byte} {i : Instr} (h : decodeFamilyF x nn = some i) :
    encode i = encodeXI 0xF#4 x nn := by
  unfold decodeFamilyF at h
  split_ifs at h <;> (cases h; subst nn; rfl)

/-- Where a word decodes it is the word of its instruction: family by family, in the dispatch's order (R73). -/
theorem encode_of_decodeWord {w : Word} {i : Instr} (h : decodeWord w = some i) : encode i = w := by
  unfold decodeWord at h
  obtain ⟨hf, h⟩ | ⟨h0, h⟩ := ite_eq_iff.mp h
  · exact encode_of_decodeFamily0 h
  obtain ⟨hf, h⟩ | ⟨h1, h⟩ := ite_eq_iff.mp h
  · cases h; exact encodeA_of_family hf
  obtain ⟨hf, h⟩ | ⟨h2, h⟩ := ite_eq_iff.mp h
  · cases h; exact encodeA_of_family hf
  obtain ⟨hf, h⟩ | ⟨h3, h⟩ := ite_eq_iff.mp h
  · cases h; exact encodeXI_of_family hf
  obtain ⟨hf, h⟩ | ⟨h4, h⟩ := ite_eq_iff.mp h
  · cases h; exact encodeXI_of_family hf
  obtain ⟨hf, h⟩ | ⟨h5, h⟩ := ite_eq_iff.mp h
  · obtain ⟨hn, h⟩ := Option.ite_none_right_eq_some.mp h
    cases h; exact encodeXY_of_fields hf hn
  obtain ⟨hf, h⟩ | ⟨h6, h⟩ := ite_eq_iff.mp h
  · cases h; exact encodeXI_of_family hf
  obtain ⟨hf, h⟩ | ⟨h7, h⟩ := ite_eq_iff.mp h
  · cases h; exact encodeXI_of_family hf
  obtain ⟨hf, h⟩ | ⟨h8, h⟩ := ite_eq_iff.mp h
  · exact (encode_of_decodeFamily8 h).trans (encodeXY_of_fields hf rfl)
  obtain ⟨hf, h⟩ | ⟨h9, h⟩ := ite_eq_iff.mp h
  · obtain ⟨hn, h⟩ := Option.ite_none_right_eq_some.mp h
    cases h; exact encodeXY_of_fields hf hn
  obtain ⟨hf, h⟩ | ⟨hA, h⟩ := ite_eq_iff.mp h
  · cases h; exact encodeA_of_family hf
  obtain ⟨hf, h⟩ | ⟨hB, h⟩ := ite_eq_iff.mp h
  · cases h; exact encodeA_of_family hf
  obtain ⟨hf, h⟩ | ⟨hC, h⟩ := ite_eq_iff.mp h
  · cases h; exact encodeXI_of_family hf
  obtain ⟨hf, h⟩ | ⟨hD, h⟩ := ite_eq_iff.mp h
  · cases h; exact encodeXY_of_fields hf rfl
  obtain ⟨hf, h⟩ | ⟨hE, h⟩ := ite_eq_iff.mp h
  · exact (encode_of_decodeFamilyE h).trans (encodeXI_of_family hf)
  have hf : fieldFamily w = 0xF#4 := by bv_omega
  exact (encode_of_decodeFamilyF h).trans (encodeXI_of_family hf)

end Sys2Proof

open Sys2Proof Sys2Proof.Machine

/-- Settles O1: the word by the dispatch of each format, the bytes because two bytes rebuild their word. -/
theorem decodeOfEncodeIsTheInstruction : Obligations.DecodeOfEncodeIsTheInstruction :=
  fun i rest => ⟨decodeWord_encode i, decode_encodeBytes i rest⟩

/-- Settles O2, family by family of the dispatch. -/
theorem encodeOfDecodeIsTheWord : Obligations.EncodeOfDecodeIsTheWord := fun _ _ => encode_of_decodeWord
end

section
/-! PROOFS. The opcode map and the unknown words (spec 30_encoding.md R74 to R76): each word fits at most one row, and the
dispatch rejects a word exactly where no row fits it. -/

namespace Sys2Proof

/-! ### The opcode map -/

theorem fitsItsRow (i : Instr) : Laws.FitsItsRow.Statement i := by
  cases i with
  | cls => exact Laws.FitsItsRow.cls
  | ret => exact Laws.FitsItsRow.ret
  | jp nnn => exact Laws.FitsItsRow.jp nnn
  | call nnn => exact Laws.FitsItsRow.call nnn
  | seImm x nn => exact Laws.FitsItsRow.seImm x nn
  | sneImm x nn => exact Laws.FitsItsRow.sneImm x nn
  | seReg x y => exact Laws.FitsItsRow.seReg x y
  | ldImm x nn => exact Laws.FitsItsRow.ldImm x nn
  | addImm x nn => exact Laws.FitsItsRow.addImm x nn
  | ldReg x y => exact Laws.FitsItsRow.ldReg x y
  | orReg x y => exact Laws.FitsItsRow.orReg x y
  | andReg x y => exact Laws.FitsItsRow.andReg x y
  | xorReg x y => exact Laws.FitsItsRow.xorReg x y
  | addReg x y => exact Laws.FitsItsRow.addReg x y
  | subReg x y => exact Laws.FitsItsRow.subReg x y
  | shr x y => exact Laws.FitsItsRow.shr x y
  | subn x y => exact Laws.FitsItsRow.subn x y
  | shl x y => exact Laws.FitsItsRow.shl x y
  | sneReg x y => exact Laws.FitsItsRow.sneReg x y
  | ldIndex nnn => exact Laws.FitsItsRow.ldIndex nnn
  | jpV0 nnn => exact Laws.FitsItsRow.jpV0 nnn
  | rnd x nn => exact Laws.FitsItsRow.rnd x nn
  | drw x y n => exact Laws.FitsItsRow.drw x y n
  | skp x => exact Laws.FitsItsRow.skp x
  | sknp x => exact Laws.FitsItsRow.sknp x
  | ldDelay x => exact Laws.FitsItsRow.ldDelay x
  | waitKey x => exact Laws.FitsItsRow.waitKey x
  | setDelay x => exact Laws.FitsItsRow.setDelay x
  | setSound x => exact Laws.FitsItsRow.setSound x
  | addIndex x => exact Laws.FitsItsRow.addIndex x
  | font x => exact Laws.FitsItsRow.font x
  | bcd x => exact Laws.FitsItsRow.bcd x
  | stm x => exact Laws.FitsItsRow.stm x
  | ldm x => exact Laws.FitsItsRow.ldm x

/-- Two rows of the map differ in a bit that both fix. -/
theorem opcodeRows_pairwise : opcodeRows.Pairwise (fun r r' => r.bits &&& r'.mask ≠ r'.bits &&& r.mask) := by
  decide

/-- A word fits at most one row: what two rows fix of it agrees on the bits that both fix. -/
theorem row_unique {w : Word} {r r' : OpcodeRow} (hr : r ∈ opcodeRows) (hr' : r' ∈ opcodeRows)
    (hfit : r.fits w = true) (hfit' : r'.fits w = true) : r = r' := by
  have hw : w &&& r.mask = r.bits := by simpa [OpcodeRow.fits] using hfit
  have hw' : w &&& r'.mask = r'.bits := by simpa [OpcodeRow.fits] using hfit'
  by_contra hne
  have : Std.Symm fun r r' : OpcodeRow => r.bits &&& r'.mask ≠ r'.bits &&& r.mask := ⟨fun _ _ h e => h e.symm⟩
  refine opcodeRows_pairwise.forall hr hr' hne ?_
  rw [← hw, ← hw', BitVec.and_assoc, BitVec.and_assoc, BitVec.and_comm r.mask]

/-! ### The unknown words -/

theorem decodeFamily0_eq_none_iff {w : Word} : decodeFamily0 w = none ↔ w ≠ 0x00E0#16 ∧ w ≠ 0x00EE#16 := by
  simp [decodeFamily0, ite_eq_iff]

theorem decodeFamily8_eq_none_iff {x y : Reg} {n : Nibble} :
    decodeFamily8 x y n = none ↔ n ∉ [0x0#4, 0x1#4, 0x2#4, 0x3#4, 0x4#4, 0x5#4, 0x6#4, 0x7#4, 0xE#4] := by
  simp [decodeFamily8, ite_eq_iff]

theorem decodeFamilyE_eq_none_iff {x : Reg} {nn : Byte} : decodeFamilyE x nn = none ↔ nn ∉ [0x9E#8, 0xA1#8] := by
  simp [decodeFamilyE, ite_eq_iff]

theorem decodeFamilyF_eq_none_iff {x : Reg} {nn : Byte} : decodeFamilyF x nn = none ↔
    nn ∉ [0x07#8, 0x0A#8, 0x15#8, 0x18#8, 0x1E#8, 0x29#8, 0x33#8, 0x55#8, 0x65#8] := by
  simp [decodeFamilyF, ite_eq_iff]

theorem nibble_cases (f : Nibble) : f = 0x0#4 ∨ f = 0x1#4 ∨ f = 0x2#4 ∨ f = 0x3#4 ∨ f = 0x4#4 ∨ f = 0x5#4 ∨ f = 0x6#4 ∨
    f = 0x7#4 ∨ f = 0x8#4 ∨ f = 0x9#4 ∨ f = 0xA#4 ∨ f = 0xB#4 ∨ f = 0xC#4 ∨ f = 0xD#4 ∨ f = 0xE#4 ∨ f = 0xF#4 := by
  revert f; decide

/-- The unknown words in the fields the dispatch tests (R76, decision D1): a family either tests a second field or has no
unknown word. -/
theorem decodeWord_eq_none_iff {w : Word} : decodeWord w = none ↔
    (fieldFamily w = 0x0#4 ∧ w ≠ 0x00E0#16 ∧ w ≠ 0x00EE#16) ∨
    (fieldFamily w = 0x5#4 ∧ fieldN w ≠ 0x0#4) ∨
    (fieldFamily w = 0x8#4 ∧ fieldN w ∉ [0x0#4, 0x1#4, 0x2#4, 0x3#4, 0x4#4, 0x5#4, 0x6#4, 0x7#4, 0xE#4]) ∨
    (fieldFamily w = 0x9#4 ∧ fieldN w ≠ 0x0#4) ∨
    (fieldFamily w = 0xE#4 ∧ fieldNN w ∉ [0x9E#8, 0xA1#8]) ∨
    (fieldFamily w = 0xF#4 ∧
      fieldNN w ∉ [0x07#8, 0x0A#8, 0x15#8, 0x18#8, 0x1E#8, 0x29#8, 0x33#8, 0x55#8, 0x65#8]) := by
  rcases nibble_cases (fieldFamily w) with
    hf | hf | hf | hf | hf | hf | hf | hf | hf | hf | hf | hf | hf | hf | hf | hf <;>
    simp [decodeWord, hf, decodeFamily0_eq_none_iff, decodeFamily8_eq_none_iff, decodeFamilyE_eq_none_iff,
      decodeFamilyF_eq_none_iff]

/-- What each row of the map fixes (R75): the family always, and the second field wherever the dispatch tests one. -/
theorem opcodeRows_fix : ∀ r ∈ opcodeRows, fieldFamily r.mask = 0xF#4 ∧
    (fieldFamily r.bits = 0x0#4 → r.mask = 0xFFFF#16 ∧ (r.bits = 0x00E0#16 ∨ r.bits = 0x00EE#16)) ∧
    (fieldFamily r.bits = 0x5#4 ∨ fieldFamily r.bits = 0x9#4 → fieldN r.mask = 0xF#4 ∧ fieldN r.bits = 0x0#4) ∧
    (fieldFamily r.bits = 0x8#4 → fieldN r.mask = 0xF#4 ∧
      fieldN r.bits ∈ [0x0#4, 0x1#4, 0x2#4, 0x3#4, 0x4#4, 0x5#4, 0x6#4, 0x7#4, 0xE#4]) ∧
    (fieldFamily r.bits = 0xE#4 → fieldNN r.mask = 0xFF#8 ∧ fieldNN r.bits ∈ [0x9E#8, 0xA1#8]) ∧
    (fieldFamily r.bits = 0xF#4 → fieldNN r.mask = 0xFF#8 ∧
      fieldNN r.bits ∈ [0x07#8, 0x0A#8, 0x15#8, 0x18#8, 0x1E#8, 0x29#8, 0x33#8, 0x55#8, 0x65#8]) := by
  decide

theorem field_eq_of_fits {w : Word} {r : OpcodeRow} (hfit : r.fits w = true) {k len : Nat}
    (hmask : r.mask.extractLsb' k len = BitVec.allOnes len) : w.extractLsb' k len = r.bits.extractLsb' k len := by
  have hw : w &&& r.mask = r.bits := by simpa [OpcodeRow.fits] using hfit
  rw [← hw, BitVec.extractLsb'_and, hmask, BitVec.and_allOnes]

theorem fieldFamily_eq_of_fits {w : Word} {r : OpcodeRow} (hfit : r.fits w = true) (hmask : fieldFamily r.mask = 0xF#4) :
    fieldFamily w = fieldFamily r.bits :=
  field_eq_of_fits hfit hmask

theorem fieldN_eq_of_fits {w : Word} {r : OpcodeRow} (hfit : r.fits w = true) (hmask : fieldN r.mask = 0xF#4) :
    fieldN w = fieldN r.bits :=
  field_eq_of_fits hfit hmask

theorem fieldNN_eq_of_fits {w : Word} {r : OpcodeRow} (hfit : r.fits w = true) (hmask : fieldNN r.mask = 0xFF#8) :
    fieldNN w = fieldNN r.bits :=
  field_eq_of_fits hfit hmask

theorem eq_bits_of_fits {w : Word} {r : OpcodeRow} (hfit : r.fits w = true) (hmask : r.mask = 0xFFFF#16) : w = r.bits := by
  simpa [OpcodeRow.fits, hmask, and_mask_all] using hfit

/-- A word that fits a row decodes: the row fixes every field that the dispatch tests in its family. -/
theorem decodeWord_ne_none_of_fits {w : Word} {r : OpcodeRow} (hr : r ∈ opcodeRows) (hfit : r.fits w = true) :
    decodeWord w ≠ none := by
  obtain ⟨hmask, h0, h59, h8, hE, hF⟩ := opcodeRows_fix r hr
  rw [← fieldFamily_eq_of_fits hfit hmask] at h0 h59 h8 hE hF
  rw [Ne, decodeWord_eq_none_iff]
  rintro (⟨hf, hE0, hEE⟩ | ⟨hf, hn⟩ | ⟨hf, hn⟩ | ⟨hf, hn⟩ | ⟨hf, hnn⟩ | ⟨hf, hnn⟩)
  · obtain ⟨hall, hbits⟩ := h0 hf
    rw [← eq_bits_of_fits hfit hall] at hbits
    exact hbits.elim hE0 hEE
  · obtain ⟨hall, hbits⟩ := h59 (.inl hf)
    exact hn ((fieldN_eq_of_fits hfit hall).trans hbits)
  · obtain ⟨hall, hbits⟩ := h8 hf
    exact hn (fieldN_eq_of_fits hfit hall ▸ hbits)
  · obtain ⟨hall, hbits⟩ := h59 (.inr hf)
    exact hn ((fieldN_eq_of_fits hfit hall).trans hbits)
  · obtain ⟨hall, hbits⟩ := hE hf
    exact hnn (fieldNN_eq_of_fits hfit hall ▸ hbits)
  · obtain ⟨hall, hbits⟩ := hF hf
    exact hnn (fieldNN_eq_of_fits hfit hall ▸ hbits)

theorem fits_row_of_decodeWord {w : Word} {i : Instr} (h : decodeWord w = some i) :
    i.row ∈ opcodeRows ∧ i.row.fits w = true :=
  encode_of_decodeWord h ▸ fitsItsRow i

/-- A word decodes exactly where some row fits it. -/
theorem isSome_decodeWord (w : Word) : (decodeWord w).isSome = wellFormedWord w := by
  rw [Bool.eq_iff_iff, wellFormedWord, List.any_eq_true, Option.isSome_iff_exists]
  constructor
  · rintro ⟨i, hi⟩
    exact ⟨i.row, fits_row_of_decodeWord hi⟩
  · rintro ⟨r, hr, hfit⟩
    exact Option.ne_none_iff_exists'.mp (decodeWord_ne_none_of_fits hr hfit)

/-! ### The fields as digits of the word's number (R72) -/

theorem toNat_fieldFamily (w : Word) : (fieldFamily w).toNat = w.toNat / 4096 := by
  have := w.isLt
  simp [fieldFamily, Nat.shiftRight_eq_div_pow]
  omega

theorem toNat_fieldX (w : Word) : (fieldX w).toNat = w.toNat / 256 % 16 := by
  simp [fieldX, Nat.shiftRight_eq_div_pow]

theorem toNat_fieldY (w : Word) : (fieldY w).toNat = w.toNat / 16 % 16 := by
  simp [fieldY, Nat.shiftRight_eq_div_pow]

theorem toNat_fieldN (w : Word) : (fieldN w).toNat = w.toNat % 16 := by
  simp [fieldN]

theorem toNat_fieldNN (w : Word) : (fieldNN w).toNat = w.toNat % 256 := by
  simp [fieldNN]

theorem toNat_fieldNNN (w : Word) : (fieldNNN w).toNat = w.toNat % 4096 := by
  simp [fieldNNN]

theorem toNat_wordOfBytes (hi lo : Byte) : (wordOfBytes hi lo).toNat = hi.toNat * 256 + lo.toNat := by
  rw [wordOfBytes, BitVec.toNat_append, ← Nat.shiftLeft_add_eq_or_of_lt lo.isLt, Nat.shiftLeft_eq]

theorem fieldFamily_eq_iff {w : Word} {f : Nibble} : fieldFamily w = f ↔ w.toNat / 4096 = f.toNat := by
  rw [← toNat_fieldFamily, BitVec.toNat_inj]

theorem fieldN_eq_iff {w : Word} {n : Nibble} : fieldN w = n ↔ w.toNat % 16 = n.toNat := by
  rw [← toNat_fieldN, BitVec.toNat_inj]

theorem fieldNN_eq_iff {w : Word} {nn : Byte} : fieldNN w = nn ↔ w.toNat % 256 = nn.toNat := by
  rw [← toNat_fieldNN, BitVec.toNat_inj]

end Sys2Proof

open Sys2Proof Sys2Proof.Machine

/-- Settles O3: a decoded word fits its instruction's row, no two rows fit one word, and a row that fits leaves the dispatch
no field to reject. -/
theorem dispatchAgreesWithOpcodeMap : Obligations.DispatchAgreesWithOpcodeMap := by
  intro w
  refine ⟨isSome_decodeWord w, fun i hi r hr => ?_⟩
  obtain ⟨hrow, hfit⟩ := fits_row_of_decodeWord hi
  exact ⟨fun h => row_unique hr hrow h hfit, fun h => h ▸ hfit⟩

/-- Settles O4: the six lines of the table are the six families with unknown words, their fields read as digits. In family
0x8 the table lists the nibbles that are unknown, the dispatch those that are not. -/
theorem unknownWordsAreThoseOfTheTable : Obligations.UnknownWordsAreThoseOfTheTable := by
  intro w
  have hlow : w.toNat % 16 < 16 := Nat.mod_lt _ (by decide)
  simp only [decodeWord_eq_none_iff, fieldFamily_eq_iff, ne_eq, fieldN_eq_iff, fieldNN_eq_iff, List.mem_cons,
    List.not_mem_nil, or_false, BitVec.toNat_ofNat]
  refine or_congr Iff.rfl ?_
  omega

/-- Settles O5: each sum is the number of the word put together again from the digits its fields are. -/
theorem fetchedWordIsRebuiltFromItsFields : Obligations.FetchedWordIsRebuiltFromItsFields := by
  intro s hpc
  refine ⟨_, if_pos (by omega), toNat_wordOfBytes _ _, ?_⟩
  rw [toNat_fieldFamily, toNat_fieldX, toNat_fieldY, toNat_fieldN, toNat_fieldNN, toNat_fieldNNN]
  omega

/-- Settles O6, the model's decoder run on the thirteen words. -/
theorem writtenOutWordsDecode : Obligations.WrittenOutWordsDecode := by
  refine ⟨?_, ?_, ?_, ?_, ?_, ?_, ?_, ?_, ?_, ?_, ?_, ?_, ?_⟩ <;> decide
end

section
/-! PROOFS. Control transfer and key skips (spec 41_control_flow.md R110 to R117, 45_keypad_timers.md R180, R181, R205): what
each meaning answers, its faults (60_exceptions.md R201, R202) and its frame. -/

namespace Sys2Proof.Machine

/-! ### What the meanings answer -/

theorem exec_jp (nnn : Addr12) (s : State) : exec (.jp nnn) s = .next (s.setPc (zextAddr nnn)) := rfl

theorem exec_jpV0 (nnn : Addr12) (s : State) :
    exec (.jpV0 nnn) s = .next (s.setPc (zextAddr nnn + zextByte (s.getV 0x0#4))) := rfl

theorem exec_seReg (x y : Reg) (s : State) : exec (.seReg x y) s = .next (s.skipIf (s.getV x == s.getV y)) := rfl

theorem exec_sneReg (x y : Reg) (s : State) : exec (.sneReg x y) s = .next (s.skipIf (s.getV x != s.getV y)) := rfl

theorem exec_call_of_room (nnn : Addr12) {s : State} (h : s.sp.val < 16) :
    exec (.call nnn) s = .next ((s.push s.pcNext h).setPc (zextAddr nnn)) := dif_pos h

theorem exec_call_of_full (nnn : Addr12) {s : State} (h : s.sp.val = 16) :
    exec (.call nnn) s = .next (s.faulted .stackOverflow 16) := dif_neg (by omega)

theorem exec_ret_of_pos {s : State} (h : 0 < s.sp.val) :
    exec .ret s = .next ((s.pop h).setPc (s.stackAt (s.topIndex h))) := dif_pos h

theorem exec_ret_of_empty {s : State} (h : s.sp.val = 0) : exec .ret s = .next (s.faulted .stackUnderflow 0) :=
  dif_neg (by omega)

theorem exec_skp_of_key {x : Reg} {s : State} (h : (s.getV x).toNat ≤ 15) :
    exec (.skp x) s = .next (s.skipIf (s.keyPressed (s.getV x).toNat)) := if_pos h

theorem exec_sknp_of_key {x : Reg} {s : State} (h : (s.getV x).toNat ≤ 15) :
    exec (.sknp x) s = .next (s.skipIf (!s.keyPressed (s.getV x).toNat)) := if_pos h

theorem exec_skp_of_no_key {x : Reg} {s : State} (h : 15 < (s.getV x).toNat) :
    exec (.skp x) s = .next (s.faulted .keyIndexOutOfRange (s.getV x).toNat) := if_neg (by omega)

theorem exec_sknp_of_no_key {x : Reg} {s : State} (h : 15 < (s.getV x).toNat) :
    exec (.sknp x) s = .next (s.faulted .keyIndexOutOfRange (s.getV x).toNat) := if_neg (by omega)

/-! ### Skips -/

theorem setsPc_seReg (s : State) (x y : Reg) :
    SetsPc (.seReg x y) s (if s.getV x = s.getV y then s.pc + 2#16 + 2#16 else s.pc + 2#16) := by
  simpa using setsPc_of_exec_eq_skipIf (exec_seReg x y s)

theorem setsPc_sneReg (s : State) (x y : Reg) :
    SetsPc (.sneReg x y) s (if s.getV x = s.getV y then s.pc + 2#16 else s.pc + 2#16 + 2#16) := by
  simpa using setsPc_of_exec_eq_skipIf (exec_sneReg x y s)

theorem setsPc_skp {s : State} {x : Reg} {k : Nat} (hk : (s.getV x).toNat = k) (hk15 : k ≤ 15) :
    SetsPc (.skp x) s (if s.keys.getLsbD k then s.pc + 2#16 + 2#16 else s.pc + 2#16) := by
  subst hk
  exact setsPc_of_exec_eq_skipIf (exec_skp_of_key hk15)

theorem setsPc_sknp {s : State} {x : Reg} {k : Nat} (hk : (s.getV x).toNat = k) (hk15 : k ≤ 15) :
    SetsPc (.sknp x) s (if s.keys.getLsbD k then s.pc + 2#16 else s.pc + 2#16 + 2#16) := by
  subst hk
  have hskip := setsPc_of_exec_eq_skipIf (exec_sknp_of_key hk15)
  cases hpressed : s.keys.getLsbD (s.getV x).toNat <;> simpa [State.keyPressed, hpressed] using hskip

/-! ### Jump targets (R111, R117) -/

theorem zextAddr_eq_ofNat (nnn : Addr12) : zextAddr nnn = BitVec.ofNat 16 nnn.toNat := by
  apply BitVec.eq_of_toNat_eq; simp

theorem zextByte_eq_ofNat (b : Byte) : zextByte b = BitVec.ofNat 16 b.toNat := by
  apply BitVec.eq_of_toNat_eq; simp

theorem toNat_jpV0_target (nnn : Addr12) (b : Byte) :
    (zextAddr nnn + zextByte b).toNat = nnn.toNat + b.toNat := by
  have := nnn.isLt
  have := b.isLt
  rw [BitVec.toNat_add, BitVec.toNat_setWidth_of_le (by decide), BitVec.toNat_setWidth_of_le (by decide)]
  omega

theorem jpV0_target_eq_ofNat (nnn : Addr12) (b : Byte) :
    zextAddr nnn + zextByte b = BitVec.ofNat 16 (nnn.toNat + b.toNat) := by
  rw [← toNat_jpV0_target, BitVec.ofNat_toNat, BitVec.setWidth_eq]

/-- After JP the next fetch fails only from 0xFFF, the one 12-bit address above 0xFFE (decision D4). -/
theorem fetchWord_jp_eq_none (s : State) (nnn : Addr12) :
    (s.setPc (zextAddr nnn)).fetchWord = none ↔ nnn = 0xFFF#12 := by
  rw [State.fetchWord_eq_none, State.setPc_pc, BitVec.toNat_setWidth_of_le (by decide)]
  bv_omega

theorem fetchWord_jpV0_eq_none (s : State) (nnn : Addr12) (b : Byte) :
    (s.setPc (zextAddr nnn + zextByte b)).fetchWord = none ↔ 0xFFE < nnn.toNat + b.toNat := by
  rw [State.fetchWord_eq_none, State.setPc_pc, toNat_jpV0_target]

/-! ### A return after a call -/

/-- The entry a return pops right after a push is the one pushed. -/
theorem State.stackAt_topIndex_push (s : State) (w pc : Word) (h : s.sp.val < 16)
    (h' : 0 < ((s.push w h).setPc pc).sp.val) :
    ((s.push w h).setPc pc).stackAt (((s.push w h).setPc pc).topIndex h') = w := by
  rw [State.stackAt_setPc, State.stackAt_push, if_pos (by simp [State.topIndex])]

end Sys2Proof.Machine

open Sys2Proof Sys2Proof.Machine

/-- Settles O16: format `XY` in families 0x5 and 0x9, where the dispatch tests the low nibble, and a conditional skip. -/
theorem registerSkips : Obligations.RegisterSkips := by
  intro s x y
  refine ⟨fun n => ?_, setsPc_seReg s x y, fun n => ?_, setsPc_sneReg s x y⟩
  · exact (decodeTableWord_XY 0x5#4 x y n).trans (decodeWord_encodeXY_five x y n)
  · exact (decodeTableWord_XY 0x9#4 x y n).trans (decodeWord_encodeXY_nine x y n)

/-- Settles O17: the targets as numbers, neither sum reaching 65536. -/
theorem jumpTargets : Obligations.JumpTargets := by
  intro s nnn
  refine ⟨⟨_, exec_jp nnn s, zextAddr_eq_ofNat nnn, fun _ _ => rfl, rfl⟩,
    ⟨_, exec_jpV0 nnn s, jpV0_target_eq_ofNat nnn _, fun _ _ => rfl, rfl⟩, ?jp, ?jpV0⟩
  case jp =>
    rintro t ⟨⟩
    exact fetchWord_jp_eq_none s nnn
  case jpV0 =>
    rintro t ⟨⟩
    refine ⟨?_, fetchWord_jpV0_eq_none s nnn _⟩
    have := nnn.isLt
    have := (s.getV 0x0#4).isLt
    rw [State.setPc_pc, toNat_jpV0_target]
    omega

/-- Settles O18: a push and a jump. -/
theorem callPushesTheFollowingAddress : Obligations.CallPushesTheFollowingAddress := by
  intro s nnn k hk
  have hroom : s.sp.val < 16 := hk ▸ k.isLt
  refine ⟨_, exec_call_of_room nnn hroom, zextAddr_eq_ofNat nnn, rfl, ?_, fun j hj => ?_, rfl⟩
  · rw [State.stackAt_setPc, State.stackAt_push, if_pos hk.symm]; rfl
  · rw [State.stackAt_setPc, State.stackAt_push, if_neg (fun e => hj (Fin.ext (e.trans hk)))]

/-- Settles O19: the entry popped is the one below SP. -/
theorem returnPopsTheTopEntry : Obligations.ReturnPopsTheTopEntry := by
  intro s k hk
  have hpos : 0 < s.sp.val := by omega
  have htop : s.topIndex hpos = k := Fin.ext (by simp [State.topIndex, hk])
  exact ⟨_, exec_ret_of_pos hpos, by rw [htop, State.setPc_pc], by simp [hk], fun _ _ => rfl, rfl⟩

/-- Settles O20: the two faults of the stack. -/
theorem stackOverflowAndUnderflowFault : Obligations.StackOverflowAndUnderflowFault :=
  fun _ nnn => ⟨exec_call_of_full nnn, exec_ret_of_empty⟩

/-- Settles O21: the return finds the entry that the call pushed, and SP one above it. -/
theorem returnAfterCallComesBack : Obligations.ReturnAfterCallComesBack := by
  intro s nnn hroom
  have hpos : 0 < ((s.push s.pcNext hroom).setPc (zextAddr nnn)).sp.val := Nat.succ_pos _
  refine ⟨_, _, exec_call_of_room nnn hroom, exec_ret_of_pos hpos, ?_, rfl, fun j hj => ?_⟩
  · exact s.stackAt_topIndex_push s.pcNext (zextAddr nnn) hroom hpos
  · rw [State.stackAt_setPc, State.stackAt_pop, State.stackAt_setPc, State.stackAt_push, if_neg hj]

/-- Settles O37: the key skips test the key that the value of Vx names. -/
theorem keySkips : Obligations.KeySkips :=
  fun _ _ k hk => ⟨setsPc_skp hk (Nat.le_of_lt_succ k.isLt), setsPc_sknp hk (Nat.le_of_lt_succ k.isLt)⟩

/-- Settles O38: the detail of the fault, a byte, is its zero extension. -/
theorem keyIndexAboveFifteenFaults : Obligations.KeyIndexAboveFifteenFaults := by
  intro s x h
  rw [zextByte_eq_ofNat]
  exact ⟨exec_skp_of_no_key h, exec_sknp_of_no_key h⟩

/-- Settles O44: each of the eight answers its state with PC set, the key skips because the index is in range. -/
theorem frameOfJumpsAndSkips : Obligations.FrameOfJumpsAndSkips := by
  intro s x y nn nnn i
  constructor
  · intro hi
    simp only [List.mem_cons, List.not_mem_nil, or_false] at hi
    rcases hi with rfl | rfl | rfl | rfl | rfl | rfl <;> exact ⟨_, rfl, rfl⟩
  · intro hi hkey
    simp only [List.mem_cons, List.not_mem_nil, or_false] at hi
    rcases hi with rfl | rfl
    · exact ⟨_, exec_skp_of_key hkey, rfl⟩
    · exact ⟨_, exec_sknp_of_key hkey, rfl⟩

/-- Settles O45: a push or a pop, and PC. -/
theorem frameOfCallAndReturn : Obligations.FrameOfCallAndReturn := by
  refine fun s nnn => ⟨fun hroom => ⟨_, exec_call_of_room nnn hroom, fun j hj => ?_, rfl⟩,
    fun hpos => ⟨_, exec_ret_of_pos hpos, rfl⟩⟩
  rw [State.stackAt_setPc, State.stackAt_push, if_neg hj]
end

section
/-! PROOFS. Index register and memory (spec 43_index_memory.md R151 to R155): what the meanings answer in range and out of it
(60_exceptions.md R204), the bytes a store leaves and a load reads, and their frames. -/

namespace Sys2Proof.Machine

/-! ### What the meanings answer -/

/-- The three bytes BCD stores, in the order it stores them (R153). -/
def bcdDigits (b : Byte) : List Byte := [bcdHundreds b, bcdTens b, bcdOnes b]

@[simp] theorem length_bcdDigits (b : Byte) : (bcdDigits b).length = 3 := rfl

theorem exec_addIndex (x : Reg) (s : State) :
    exec (.addIndex x) s = .next (s.advance.setI (s.i + zextByte (s.getV x))) := rfl

theorem exec_font (x : Reg) (s : State) : exec (.font x) s = .next (s.advance.setI (glyphAddr (s.getV x))) := rfl

theorem accessInRange_succ (i0 : Word) (k : Nat) : accessInRange i0 (k + 1) = true ↔ i0.toNat + k ≤ 4095 := by
  rw [accessInRange_iff]; omega

section memory
variable {s : State} {x y : Reg} {n : Nibble}

theorem exec_bcd_of_inRange (h : s.i.toNat + 2 ≤ 4095) : exec (.bcd x) s =
    .next (s.advance.writeBytes s.i.toNat (bcdDigits (s.getV x))) :=
  if_pos ((accessInRange_succ s.i 2).mpr h)

theorem exec_bcd_of_outOfRange (h : 4095 < s.i.toNat + 2) :
    exec (.bcd x) s = .next (s.faulted .dataOutOfRange (s.i.toNat + 2)) :=
  if_neg (mt (accessInRange_succ s.i 2).mp (by omega))

theorem exec_stm_of_inRange (h : s.i.toNat + x.toNat ≤ 4095) :
    exec (.stm x) s = .next (s.advance.writeBytes s.i.toNat (s.firstRegs (x.toNat + 1))) :=
  if_pos ((accessInRange_succ s.i x.toNat).mpr h)

theorem exec_stm_of_outOfRange (h : 4095 < s.i.toNat + x.toNat) :
    exec (.stm x) s = .next (s.faulted .dataOutOfRange (s.i.toNat + x.toNat)) :=
  if_neg (mt (accessInRange_succ s.i x.toNat).mp (by omega))

theorem exec_ldm_of_inRange (h : s.i.toNat + x.toNat ≤ 4095) :
    exec (.ldm x) s = .next (s.advance.loadRegs s.i.toNat (x.toNat + 1)) :=
  if_pos ((accessInRange_succ s.i x.toNat).mpr h)

theorem exec_ldm_of_outOfRange (h : 4095 < s.i.toNat + x.toNat) :
    exec (.ldm x) s = .next (s.faulted .dataOutOfRange (s.i.toNat + x.toNat)) :=
  if_neg (mt (accessInRange_succ s.i x.toNat).mp (by omega))

/-- The state DRW leaves in range: the sprite drawn, VF the collision, the display-changed output (R171). -/
def State.drawn (s : State) (x y : Reg) (n : Nibble) : State :=
  { s.advance.setV vf (flagByte (s.drawSprite (s.getV x) (s.getV y) n.toNat).2) with
    disp := (s.drawSprite (s.getV x) (s.getV y) n.toNat).1, out := { s.out with displayChanged := true } }

theorem exec_drw_of_inRange (h : n.toNat = 0 ∨ s.i.toNat + n.toNat - 1 ≤ 4095) :
    exec (.drw x y n) s = .next (s.drawn x y n) :=
  if_pos ((accessInRange_iff s.i n.toNat).mpr (by omega))

theorem exec_drw_of_outOfRange (hn : 0 < n.toNat) (h : 4095 < s.i.toNat + n.toNat - 1) :
    exec (.drw x y n) s = .next (s.faulted .dataOutOfRange (s.i.toNat + n.toNat - 1)) := by
  rw [Nat.add_sub_assoc hn]
  exact if_neg (mt (accessInRange_iff s.i n.toNat).mp (by omega))

end memory

/-! ### Several bytes stored -/

theorem State.readByte_congr {s t : State} (h : s.mem = t.mem) (a : Nat) : s.readByte a = t.readByte a :=
  congrArg (Memory.read · a) h

theorem State.advance_writeBytes_eq (s : State) (a : Nat) (bs : List Byte) : s.advance.writeBytes a bs =
    { s with pc := (s.advance.writeBytes a bs).pc, mem := (s.advance.writeBytes a bs).mem } := by
  rw [State.writeBytes_pc]
  exact s.advance.writeBytes_eq a bs

theorem State.readByte_writeBytes_at {s : State} (hm : s.mem.wf) {a k : Nat} {bs : List Byte}
    (hr : a + bs.length ≤ 4096) (hk : k < bs.length) : (s.writeBytes a bs).readByte (a + k) = bs.getD k 0x00#8 := by
  rw [State.readByte_writeBytes hm hr, if_pos (by omega), Nat.add_sub_cancel_left]

theorem sameMemory_writeBytes {s : State} (hm : s.mem.wf) {a : Nat} {bs : List Byte} (hr : a + bs.length ≤ 4096) :
    SameMemory (fun k => a ≤ k ∧ k < a + bs.length) s (s.advance.writeBytes a bs) := fun k hk => by
  rw [State.readByte_writeBytes (s := s.advance) hm hr, if_neg hk, State.readByte_advance]

/-! ### Digits (R153) -/

theorem toNat_bcdHundreds (b : Byte) : (bcdHundreds b).toNat = b.toNat / 100 := by
  have := b.isLt
  rw [bcdHundreds, BitVec.toNat_ofNat]; omega

theorem toNat_bcdTens (b : Byte) : (bcdTens b).toNat = b.toNat / 10 % 10 := by
  rw [bcdTens, BitVec.toNat_ofNat]; omega

theorem toNat_bcdOnes (b : Byte) : (bcdOnes b).toNat = b.toNat % 10 := by
  rw [bcdOnes, BitVec.toNat_ofNat]; omega

/-! ### Registers stored and loaded (R154, R155) -/

section stored
variable {s t : State} {x r : Reg} (hm : s.mem.wf) (hrange : s.i.toNat + x.toNat ≤ 4095) (ht : exec (.stm x) s = .next t)
include hm hrange ht

/-- STM puts `V[r]` at I + r. -/
theorem readByte_of_exec_stm (hr : r.toNat ≤ x.toNat) : t.readByte (s.i.toNat + r.toNat) = s.getV r := by
  obtain rfl := Host.Outcome.next.inj ((exec_stm_of_inRange hrange).symm.trans ht)
  rw [State.readByte_writeBytes_at (s := s.advance) hm (by simp; omega) (by simp; omega), State.getD_firstRegs s (by omega),
    BitVec.ofNat_toNat, BitVec.setWidth_eq]

/-- A state with the memory STM left fetches two of its bytes where it stored them (R62). -/
theorem fetchWord_of_exec_stm (hr : r.toNat < x.toNat) {t' : State} (hmem : t'.mem = t.mem)
    (hpc : t'.pc.toNat = s.i.toNat + r.toNat) : t'.fetchWord = some (wordOfBytes (s.getV r) (s.getV (r + 1#4))) := by
  have hsucc : (r + 1#4).toNat = r.toNat + 1 := by bv_omega
  rw [State.fetchWord, if_pos (by omega), hpc, State.readByte_congr hmem, State.readByte_congr hmem, Nat.add_assoc, ← hsucc,
    readByte_of_exec_stm hm hrange ht hr.le, readByte_of_exec_stm hm hrange ht (by omega)]

end stored

/-- LDM takes `V[r]` from I + r, for r up to x, and leaves the registers above. -/
theorem State.getV_advance_loadRegs (s : State) (x r : Reg) :
    (s.advance.loadRegs s.i.toNat (x.toNat + 1)).getV r =
      if r.toNat ≤ x.toNat then s.readByte (s.i.toNat + r.toNat) else s.getV r := by
  rw [State.getV_loadRegs _ _ (Nat.succ_le_of_lt x.isLt)]
  simp only [Nat.lt_succ_iff, State.readByte_advance, State.getV_advance]

end Sys2Proof.Machine

open Sys2Proof Sys2Proof.Machine

/-- Settles O27: a 16-bit sum, and a product below 65536. -/
theorem addIndexAndFontResults : Obligations.AddIndexAndFontResults := by
  intro s x
  have := (s.getV x).isLt
  refine ⟨⟨_, exec_addIndex x s, ?_, rfl, fun _ _ => rfl, rfl⟩, ⟨_, exec_font x s, ?_, rfl, fun _ _ => rfl, rfl⟩⟩
  · rw [State.setI_i, BitVec.toNat_add, BitVec.toNat_setWidth_of_le (by decide)]
  · rw [State.setI_i, glyphAddr, BitVec.toNat_mul, BitVec.toNat_setWidth_of_le (by decide), BitVec.toNat_ofNat]
    omega

/-- Settles O28: the three bytes read back are the digits stored. -/
theorem bcdStoresTheDigits : Obligations.BcdStoresTheDigits := by
  intro s x hm hi
  have hlt := (s.getV x).isLt
  have hread : ∀ k < 3, _ := fun k hk => State.readByte_writeBytes_at (s := s.advance) hm (a := s.i.toNat) (k := k)
    (bs := bcdDigits (s.getV x)) (by simp; omega) hk
  have hundreds := (congrArg BitVec.toNat (hread 0 (by decide))).trans (toNat_bcdHundreds _)
  have tens := (congrArg BitVec.toNat (hread 1 (by decide))).trans (toNat_bcdTens _)
  have ones := (congrArg BitVec.toNat (hread 2 (by decide))).trans (toNat_bcdOnes _)
  refine ⟨_, exec_bcd_of_inRange (by omega), State.writeBytes_pc .., State.writeBytes_halt .., ?_⟩
  rw [Nat.add_zero] at hundreds
  rw [hundreds, tens, ones]
  omega

/-- Settles O29: the bytes stored are the registers in order, each read back at its address. -/
theorem stmStoresTheRegisters : Obligations.StmStoresTheRegisters := by
  intro s x hm hi
  exact ⟨_, exec_stm_of_inRange hi, State.writeBytes_pc .., State.writeBytes_i .., State.writeBytes_halt ..,
    fun r hr => readByte_of_exec_stm hm hi (exec_stm_of_inRange hi) hr⟩

/-- Settles O30: each register up to x takes the byte at its own distance from I. -/
theorem ldmLoadsTheRegisters : Obligations.LdmLoadsTheRegisters := by
  intro s x hi
  exact ⟨_, exec_ldm_of_inRange hi, State.loadRegs_pc .., State.loadRegs_i .., State.loadRegs_halt ..,
    fun r hr => (s.getV_advance_loadRegs x r).trans (if_pos hr)⟩

/-- Settles O31: the four range checks, and that a sprite of no rows is always in range. -/
theorem dataPastMemoryFaults : Obligations.DataPastMemoryFaults := fun _ _ _ _ =>
  ⟨exec_bcd_of_outOfRange, exec_stm_of_outOfRange, exec_ldm_of_outOfRange, exec_drw_of_outOfRange,
    fun hn => ⟨_, exec_drw_of_inRange (.inl hn), rfl, rfl, rfl⟩⟩

/-- Settles O32: LDM reads the bytes at the addresses where STM put them. -/
theorem stmThenLdmRestoresTheRegisters : Obligations.StmThenLdmRestoresTheRegisters := by
  intro s t x hm hi ht t' hmem hi'
  refine ⟨_, exec_ldm_of_inRange (hi'.symm ▸ hi), fun r hr => ?_⟩
  rw [State.getV_advance_loadRegs, if_pos hr, hi', State.readByte_congr hmem, readByte_of_exec_stm hm hi ht hr]

/-- Settles O33: a fetch reads two of the bytes stored, those of `V[r]` and of the register after it. -/
theorem storedBytesAreFetched : Obligations.StoredBytesAreFetched :=
  fun _ _ _ _ hm hi hr ht _ hmem hpc => fetchWord_of_exec_stm hm hi ht hr hmem hpc

/-- Settles O46: each is one write to I. -/
theorem frameOfIndexInstructions : Obligations.FrameOfIndexInstructions := by
  intro s x nnn i hi
  simp only [List.mem_cons, List.not_mem_nil, or_false] at hi
  rcases hi with rfl | rfl | rfl
  · exact ⟨_, exec_ldIndex nnn s, rfl⟩
  · exact ⟨_, exec_addIndex x s, rfl⟩
  · exact ⟨_, exec_font x s, rfl⟩

/-- Settles O47: a store of several bytes changes memory alone, and of it the bytes stored. -/
theorem frameOfStores : Obligations.FrameOfStores := by
  intro s x hm
  refine ⟨fun hi => ⟨_, exec_bcd_of_inRange hi, s.advance_writeBytes_eq _ _, ?_⟩,
    fun hi => ⟨_, exec_stm_of_inRange hi, s.advance_writeBytes_eq _ _, ?_⟩⟩
  · rintro a rfl
    exact sameMemory_writeBytes hm (a := s.i.toNat) (bs := bcdDigits (s.getV x)) (by rw [length_bcdDigits]; omega)
  · rintro a rfl
    have hsame := sameMemory_writeBytes hm (a := s.i.toNat) (bs := s.firstRegs (x.toNat + 1)) (by simp; omega)
    rwa [State.length_firstRegs] at hsame
end

section
/-! PROOFS. Arithmetic with a flag, shifts, and the random byte (spec 42_alu.md R129, R136 to R141): what a result and a flag
written one after the other leave in the registers. -/

namespace Sys2Proof.Machine

/-! ### What the meanings answer -/

theorem exec_addReg (x y : Reg) (s : State) : exec (.addReg x y) s =
    .next (s.advance.resultThenFlag x (s.getV x + s.getV y) (carryOf (s.getV x) (s.getV y))) := rfl

theorem exec_subReg (x y : Reg) (s : State) : exec (.subReg x y) s =
    .next (s.advance.resultThenFlag x (s.getV x - s.getV y) (borrowOf (s.getV x) (s.getV y))) := rfl

theorem exec_subn (x y : Reg) (s : State) : exec (.subn x y) s =
    .next (s.advance.resultThenFlag x (s.getV y - s.getV x) (borrowOf (s.getV y) (s.getV x))) := rfl

theorem exec_shr (x y : Reg) (s : State) : exec (.shr x y) s =
    .next (s.advance.flagThenResult x (shiftedOutLow (s.getV x)) (s.getV x >>> 1)) := rfl

theorem exec_shl (x y : Reg) (s : State) : exec (.shl x y) s =
    .next (s.advance.flagThenResult x (shiftedOutHigh (s.getV x)) (s.getV x <<< 1)) := rfl

theorem exec_rnd (x : Reg) (nn : Byte) (s : State) : exec (.rnd x nn) s =
    .next { rndWith (Config.randIn s.draws) x nn s with draws := s.draws + 1 } := rfl

/-! ### Result and flag (R96, decision D2) -/

theorem State.getV_resultThenFlag_vf (s : State) (x : Reg) (b : Byte) (f : Bool) :
    (s.resultThenFlag x b f).getV vf = flagByte f := by
  rw [State.getV_resultThenFlag, if_pos rfl]

theorem State.getV_resultThenFlag_same (s : State) {x : Reg} (hx : x ≠ vf) (b : Byte) (f : Bool) :
    (s.resultThenFlag x b f).getV x = b := by
  rw [State.getV_resultThenFlag, if_neg hx, if_pos rfl]

theorem State.getV_resultThenFlag_ne (s : State) {x r : Reg} (hr : ¬ (r = x ∨ r = vf)) (b : Byte) (f : Bool) :
    (s.resultThenFlag x b f).getV r = s.getV r := by
  rw [State.getV_resultThenFlag, if_neg (fun h => hr (.inr h)), if_neg (fun h => hr (.inl h))]

theorem State.getV_flagThenResult_same (s : State) (x : Reg) (f : Bool) (b : Byte) :
    (s.flagThenResult x f b).getV x = b := by
  rw [State.getV_flagThenResult, if_pos rfl]

theorem State.getV_flagThenResult_vf (s : State) {x : Reg} (hx : x ≠ vf) (f : Bool) (b : Byte) :
    (s.flagThenResult x f b).getV vf = flagByte f := by
  rw [State.getV_flagThenResult, if_neg hx.symm, if_pos rfl]

theorem State.getV_flagThenResult_ne (s : State) {x r : Reg} (hr : ¬ (r = x ∨ r = vf)) (f : Bool) (b : Byte) :
    (s.flagThenResult x f b).getV r = s.getV r := by
  rw [State.getV_flagThenResult, if_neg (fun h => hr (.inl h)), if_neg (fun h => hr (.inr h))]

/-! ### The flags and results as numbers (R129) -/

theorem toNat_flagByte (b : Bool) : (flagByte b).toNat = if b then 1 else 0 := by
  cases b <;> rfl

theorem toNat_flagByte_carryOf (a b : Byte) :
    (flagByte (carryOf a b)).toNat = if 255 < a.toNat + b.toNat then 1 else 0 := by
  simp [toNat_flagByte, carryOf]

theorem toNat_flagByte_borrowOf (a b : Byte) : (flagByte (borrowOf a b)).toNat = if a.toNat < b.toNat then 1 else 0 := by
  simp [toNat_flagByte, borrowOf]

theorem toNat_flagByte_getLsbD (a : Byte) (k : Nat) : (flagByte (a.getLsbD k)).toNat = a.toNat / 2 ^ k % 2 := by
  rw [toNat_flagByte, BitVec.getLsbD, Nat.testBit_eq_decide_div_mod_eq]
  simp only [decide_eq_true_eq]
  split <;> omega

theorem toNat_flagByte_shiftedOutLow (a : Byte) : (flagByte (shiftedOutLow a)).toNat = a.toNat % 2 := by
  rw [shiftedOutLow, toNat_flagByte_getLsbD, Nat.pow_zero, Nat.div_one]

theorem toNat_flagByte_shiftedOutHigh (a : Byte) : (flagByte (shiftedOutHigh a)).toNat = a.toNat / 128 := by
  have := a.isLt
  rw [shiftedOutHigh, toNat_flagByte_getLsbD]
  omega

theorem toNat_shiftRight_one (a : Byte) : (a >>> 1).toNat = a.toNat / 2 := by
  rw [BitVec.toNat_ushiftRight, Nat.shiftRight_eq_div_pow, Nat.pow_one]

theorem toNat_shiftLeft_one (a : Byte) : (a <<< 1).toNat = a.toNat * 2 % 256 := by
  rw [BitVec.toNat_shiftLeft, Nat.shiftLeft_eq, Nat.pow_one]

theorem toNat_sub_int (a b : Byte) : ((a - b).toNat : Int) = (a.toNat - b.toNat : Int) % 256 := by
  have := a.isLt
  have := b.isLt
  rw [BitVec.toNat_sub]
  omega

section meanings
variable {i : Instr} {s : State} {x : Reg} {b : Byte} {f : Bool} {flag : Nat} {IsResult : Byte → Prop}

/-- An instruction that answers a result and then its flag: the flag in VF, the result in `V[x]` unless that is VF. -/
theorem completes_of_exec_eq_resultThenFlag (h : exec i s = .next (s.advance.resultThenFlag x b f))
    (hflag : (flagByte f).toNat = flag) (hresult : IsResult b) :
    ∃ t, exec i s = .next t ∧ t.pc = s.pc + 2#16 ∧ SameRegs (fun r => r = x ∨ r = vf) s t ∧ t.halt = s.halt ∧
      (t.getV vf).toNat = flag ∧ (x ≠ vf → IsResult (t.getV x)) := by
  refine ⟨_, h, rfl, fun _ hr => s.advance.getV_resultThenFlag_ne hr b f, rfl, ?_, fun hx => ?_⟩
  · rw [State.getV_resultThenFlag_vf, hflag]
  · rwa [State.getV_resultThenFlag_same _ hx]

/-- An instruction that answers a flag and then its result: the result in `V[x]`, the flag in VF unless that is `V[x]`. -/
theorem completes_of_exec_eq_flagThenResult (h : exec i s = .next (s.advance.flagThenResult x f b))
    (hflag : (flagByte f).toNat = flag) (hresult : IsResult b) :
    ∃ t, exec i s = .next t ∧ t.pc = s.pc + 2#16 ∧ SameRegs (fun r => r = x ∨ r = vf) s t ∧ t.halt = s.halt ∧
      IsResult (t.getV x) ∧ (x ≠ vf → (t.getV vf).toNat = flag) := by
  refine ⟨_, h, rfl, fun _ hr => s.advance.getV_flagThenResult_ne hr f b, rfl, ?_, fun hx => ?_⟩
  · rwa [State.getV_flagThenResult_same]
  · rw [State.getV_flagThenResult_vf _ hx, hflag]

end meanings

/-! ### Frames -/

/-- A next state that differs in registers, PC and the model's own fields alone changes nothing else. -/
theorem onlyRegsAndPc_of_eq {written : Reg → Prop} {s t : State}
    (h : t = { s with v := t.v, pc := t.pc, out := t.out, draws := t.draws }) (hregs : SameRegs written s t) :
    OnlyRegsAndPc written s t := by
  refine ⟨hregs, ?_⟩
  rw [h]
  exact ⟨rfl, ⟨rfl, fun _ _ => rfl⟩, ⟨rfl, rfl⟩, rfl, fun _ _ => rfl, rfl, rfl, rfl, rfl⟩

section meanings
variable {i : Instr} {s : State} {x : Reg} {b : Byte} {f : Bool}

theorem frame_of_exec_eq_setV (h : exec i s = .next (s.advance.setV x b)) :
    ∃ t, exec i s = .next t ∧ OnlyRegsAndPc (· = x) s t ∧ SameOutputs s t :=
  ⟨_, h, onlyRegsAndPc_of_eq rfl fun _ hr => s.advance.getV_setV_ne hr b, rfl, rfl⟩

theorem frame_of_exec_eq_resultThenFlag (h : exec i s = .next (s.advance.resultThenFlag x b f)) :
    ∃ t, exec i s = .next t ∧ OnlyRegsAndPc (fun r => r = x ∨ r = vf) s t ∧ SameOutputs s t :=
  ⟨_, h, onlyRegsAndPc_of_eq rfl fun _ hr => s.advance.getV_resultThenFlag_ne hr b f, rfl, rfl⟩

theorem frame_of_exec_eq_flagThenResult (h : exec i s = .next (s.advance.flagThenResult x f b)) :
    ∃ t, exec i s = .next t ∧ OnlyRegsAndPc (fun r => r = x ∨ r = vf) s t ∧ SameOutputs s t :=
  ⟨_, h, onlyRegsAndPc_of_eq rfl fun _ hr => s.advance.getV_flagThenResult_ne hr f b, rfl, rfl⟩

end meanings

theorem frame_rnd (x : Reg) (nn : Byte) (s : State) : OnlyRegsAndPc (· = x) s
    { rndWith (Config.randIn s.draws) x nn s with draws := s.draws + 1 } :=
  onlyRegsAndPc_of_eq rfl fun _ hr => s.advance.getV_setV_ne hr _

theorem frame_waitKey (x : Reg) (s : State) :
    ∃ t, exec (.waitKey x) s = .next t ∧ OnlyRegsAndPc (· = x) s t ∧ SameOutputs s t := by
  cases hkey : lowestKey s.keys with
  | none =>
    exact ⟨s, exec_waitKey_of_no_key x (lowestKey_none_iff.mp hkey), onlyRegsAndPc_of_eq rfl fun _ _ => rfl, rfl, rfl⟩
  | some k => exact frame_of_exec_eq_setV (exec_waitKey_of_key x hkey)

theorem State.advance_loadRegs_eq (s : State) (a n : Nat) : s.advance.loadRegs a n =
    { s with v := (s.advance.loadRegs a n).v, pc := (s.advance.loadRegs a n).pc } := by
  rw [State.loadRegs_pc]
  exact s.advance.loadRegs_eq a n

theorem frame_ldm {x : Reg} {s : State} (h : s.i.toNat + x.toNat ≤ 4095) :
    ∃ t, exec (.ldm x) s = .next t ∧ OnlyRegsAndPc (fun r => r.toNat ≤ x.toNat) s t ∧ SameOutputs s t := by
  refine ⟨_, exec_ldm_of_inRange h, onlyRegsAndPc_of_eq ?_ fun r hr => ?_, State.loadRegs_out .., State.loadRegs_draws ..⟩
  · rw [State.loadRegs_out, State.loadRegs_draws]
    exact s.advance_loadRegs_eq _ _
  · rw [State.getV_advance_loadRegs, if_neg hr]

end Sys2Proof.Machine

open Sys2Proof Sys2Proof.Machine

/-- Settles O23: the flag is written last, so VF holds it for every x, and `V[x]` the result for every other. -/
theorem addAndSubtractResults : Obligations.AddAndSubtractResults := fun s x y =>
  ⟨completes_of_exec_eq_resultThenFlag (IsResult := fun b => b.toNat = _ % 256) (exec_addReg x y s)
      (toNat_flagByte_carryOf _ _) (BitVec.toNat_add _ _),
    completes_of_exec_eq_resultThenFlag (IsResult := fun b => (b.toNat : Int) = _ % 256) (exec_subReg x y s)
      (toNat_flagByte_borrowOf _ _) (toNat_sub_int _ _),
    completes_of_exec_eq_resultThenFlag (IsResult := fun b => (b.toNat : Int) = _ % 256) (exec_subn x y s)
      (toNat_flagByte_borrowOf _ _) (toNat_sub_int _ _)⟩

/-- Settles O24: the result is written last, so `V[x]` holds it for every x, and VF the bit shifted out for every other. -/
theorem shiftResults : Obligations.ShiftResults := fun s x y =>
  ⟨completes_of_exec_eq_flagThenResult (IsResult := fun b => b.toNat = _ / 2) (exec_shr x y s)
      (toNat_flagByte_shiftedOutLow _) (toNat_shiftRight_one _),
    completes_of_exec_eq_flagThenResult (IsResult := fun b => b.toNat = _ % 256) (exec_shl x y s)
      (toNat_flagByte_shiftedOutHigh _) (toNat_shiftLeft_one _)⟩

/-- Settles O25: the byte drawn is masked, so a bit the mask has not is not in the result. -/
theorem randomByteUnderTheMask : Obligations.RandomByteUnderTheMask := by
  intro s x nn
  have hmask : ∀ rand, (rndWith rand x nn s).getV x = rand &&& nn := fun rand => by
    rw [State.getV_rndWith, if_pos rfl]
  refine ⟨⟨_, _, exec_rnd x nn s, rfl, hmask _, fun k hk => ?_, rfl, frame_rnd x nn s, rfl, rfl⟩, hmask⟩
  change ((rndWith (Config.randIn s.draws) x nn s).getV x).getLsbD k = false
  rw [hmask, BitVec.getLsbD_and, hk, Bool.and_false]

/-- Settles O43: by what each meaning writes, one register, a result with its flag, or a run of registers. -/
theorem frameOfRegisterInstructions : Obligations.FrameOfRegisterInstructions := by
  intro s x y nn i
  refine ⟨fun hi => ?oneRegister, fun hi => ?withFlag, ?rnd, ?ldm⟩
  case oneRegister =>
    simp only [List.mem_cons, List.not_mem_nil, or_false] at hi
    rcases hi with rfl | rfl | rfl | rfl | rfl | rfl | rfl | rfl
    · exact frame_of_exec_eq_setV (exec_ldImm x nn s)
    · exact frame_of_exec_eq_setV (exec_addImm x nn s)
    · exact frame_of_exec_eq_setV (exec_ldReg x y s)
    · exact frame_of_exec_eq_setV (exec_orReg x y s)
    · exact frame_of_exec_eq_setV (exec_andReg x y s)
    · exact frame_of_exec_eq_setV (exec_xorReg x y s)
    · exact frame_of_exec_eq_setV (exec_ldDelay x s)
    · exact frame_waitKey x s
  case withFlag =>
    simp only [List.mem_cons, List.not_mem_nil, or_false] at hi
    rcases hi with rfl | rfl | rfl | rfl | rfl
    · exact frame_of_exec_eq_resultThenFlag (exec_addReg x y s)
    · exact frame_of_exec_eq_resultThenFlag (exec_subReg x y s)
    · exact frame_of_exec_eq_flagThenResult (exec_shr x y s)
    · exact frame_of_exec_eq_resultThenFlag (exec_subn x y s)
    · exact frame_of_exec_eq_flagThenResult (exec_shl x y s)
  case rnd =>
    rintro rfl
    exact ⟨_, exec_rnd x nn s, frame_rnd x nn s, rfl⟩
  case ldm =>
    rintro rfl hi
    exact frame_ldm hi
end

section
/-! PROOFS. The display (spec 44_display.md R170, R171). DRW's double loop is one pass over the list of cells that the sprite
covers; no cell is in it twice, so each is flipped at most once. -/

namespace Sys2Proof.Machine

/-! ### A pass over cells -/

/-- One cell hit by a sprite bit: flipped, and a collision where it was lit (R171). -/
def hitCell (g : Drawing) (p : Nat) : Drawing := (flipPixel g.1 p, g.2 || pixelAt g.1 p)

/-- A pass over distinct cells flips exactly them, and collides where one of them was lit before the pass. -/
theorem foldl_hitCell {cells : List Nat} (hnodup : cells.Nodup) (hlt : ∀ p ∈ cells, p < 2048) (g : Drawing) :
    (∀ q, pixelAt (cells.foldl hitCell g).1 q = (pixelAt g.1 q ^^ decide (q ∈ cells))) ∧
    ((cells.foldl hitCell g).2 = true ↔ g.2 = true ∨ ∃ p ∈ cells, pixelAt g.1 p = true) := by
  induction cells generalizing g with
  | nil => simp
  | cons p cells ih =>
    obtain ⟨hp, hnodup⟩ := List.nodup_cons.mp hnodup
    obtain ⟨hpixels, hcollision⟩ := ih hnodup (fun q hq => hlt q (List.mem_cons_of_mem _ hq)) (hitCell g p)
    have hflip : ∀ q, pixelAt (hitCell g p).1 q = (pixelAt g.1 q ^^ decide (q = p)) :=
      pixelAt_flipPixel g.1 (hlt p List.mem_cons_self)
    constructor
    · intro q
      rw [List.foldl_cons, hpixels, hflip]
      by_cases hq : q = p
      · simp [hq, hp]
      · simp [hq]
    · have hrest : (∃ q ∈ cells, pixelAt (hitCell g p).1 q = true) ↔ ∃ q ∈ cells, pixelAt g.1 q = true := by
        refine exists_congr fun q => and_congr_right fun hq => ?_
        have hne : q ≠ p := fun e => hp (e ▸ hq)
        rw [hflip, decide_eq_false hne, Bool.xor_false]
      rw [List.foldl_cons, hcollision, hrest]
      simp [hitCell, or_assoc]

/-! ### The cells of a sprite -/

/-- The columns of a sprite row that hold a 1 bit (R171). -/
def rowColumns (b : Byte) : List Nat := (List.range 8).filter fun col => b.getLsbD (7 - col)

/-- The cell of a sprite bit, each coordinate wrapped by itself (R171). -/
def spriteCell (vx vy : Byte) (row col : Nat) : Nat := cellIndex ((vx.toNat + col) % 64) ((vy.toNat + row) % 32)

/-- The cells that the first `n` rows of a sprite cover, in the order of the double loop. -/
def spriteCells (vx vy : Byte) (rows : Nat → Byte) (n : Nat) : List Nat :=
  (List.range n).flatMap fun row => (rowColumns (rows row)).map (spriteCell vx vy row)

theorem drawRow_eq (vx vy : Byte) (row : Nat) (b : Byte) (g : Drawing) :
    drawRow vx vy row b g = ((rowColumns b).map (spriteCell vx vy row)).foldl hitCell g := by
  rw [List.foldl_map, rowColumns, List.foldl_filter]
  rfl

/-- The double loop is the pass over the cells. -/
theorem drawRows_eq (vx vy : Byte) (rows : Nat → Byte) (g : Drawing) (n : Nat) :
    drawRows vx vy rows g n = (spriteCells vx vy rows n).foldl hitCell g := by
  induction n with
  | zero => rfl
  | succ n ih => simp [drawRows, ih, drawRow_eq, spriteCells, List.range_succ]

theorem mem_rowColumns {b : Byte} {col : Nat} : col ∈ rowColumns b ↔ col < 8 ∧ b.getLsbD (7 - col) = true := by
  simp [rowColumns]

theorem mem_spriteCells {vx vy : Byte} {rows : Nat → Byte} {n p : Nat} : p ∈ spriteCells vx vy rows n ↔
    ∃ row col, row < n ∧ col < 8 ∧ (rows row).getLsbD (7 - col) = true ∧ spriteCell vx vy row col = p := by
  simp only [spriteCells, List.mem_flatMap, List.mem_range, List.mem_map, mem_rowColumns]
  exact ⟨fun ⟨row, hrow, col, ⟨hcol, hbit⟩, hp⟩ => ⟨row, col, hrow, hcol, hbit, hp⟩,
    fun ⟨row, col, hrow, hcol, hbit, hp⟩ => ⟨row, hrow, col, ⟨hcol, hbit⟩, hp⟩⟩

theorem spriteCell_lt (vx vy : Byte) (row col : Nat) : spriteCell vx vy row col < 2048 :=
  cellIndex_lt (Nat.mod_lt _ (by decide)) (Nat.mod_lt _ (by decide))

/-- Two bits of a sprite of at most 32 rows fall on different cells. -/
theorem spriteCell_inj {vx vy : Byte} {row col row' col' : Nat} (hrow : row < 32) (hrow' : row' < 32) (hcol : col < 8)
    (hcol' : col' < 8) (h : spriteCell vx vy row col = spriteCell vx vy row' col') : row = row' ∧ col = col' := by
  obtain ⟨hx, hy⟩ := cellIndex_inj (Nat.mod_lt _ (by decide)) (Nat.mod_lt _ (by decide)) h
  omega

theorem nodup_spriteCells (vx vy : Byte) (rows : Nat → Byte) {n : Nat} (hn : n ≤ 32) :
    (spriteCells vx vy rows n).Nodup := by
  refine List.nodup_flatMap.mpr ⟨fun row hrow => ?_, ?_⟩
  · have hrow := List.mem_range.mp hrow
    refine List.Nodup.map_on (fun col hcol col' hcol' h => ?_) (List.nodup_range.filter _)
    exact (spriteCell_inj (by omega) (by omega) (mem_rowColumns.mp hcol).1 (mem_rowColumns.mp hcol').1 h).2
  · refine List.pairwise_lt_range.imp_of_mem fun {row row'} hrow hrow' hlt p hp hp' => ?_
    have hrow := List.mem_range.mp hrow
    have hrow' := List.mem_range.mp hrow'
    obtain ⟨col, hcol, rfl⟩ := List.mem_map.mp hp
    obtain ⟨col', hcol', h⟩ := List.mem_map.mp hp'
    have := (spriteCell_inj (by omega) (by omega) (mem_rowColumns.mp hcol').1 (mem_rowColumns.mp hcol).1 h).1
    omega

/-! ### A sprite drawn from memory -/

/-- The cells covered by the sprite of `n` rows at I with its corner at (vx, vy) (R171). -/
def State.spriteCells (s : State) (vx vy : Byte) (n : Nat) : List Nat :=
  Machine.spriteCells vx vy (fun row => s.readByte (effAddr s.i row)) n

theorem spriteCovers_iff {s : State} {vx vy : Byte} {n px py : Nat} (hpx : px < 64) :
    SpriteCovers s vx vy n px py ↔ cellIndex px py ∈ s.spriteCells vx vy n := by
  rw [State.spriteCells, mem_spriteCells]
  refine exists_congr fun row => exists_congr fun col => and_congr_right' (and_congr_right' (and_congr_right' ?_))
  exact ⟨fun ⟨hx, hy⟩ => hx ▸ hy ▸ rfl, cellIndex_inj (Nat.mod_lt _ (by decide)) hpx⟩

section drawn
variable (s : State) (vx vy : Byte) {n : Nat} (hn : n ≤ 32)
include hn

theorem drawSprite_spec :
    (∀ q, pixelAt (s.drawSprite vx vy n).1 q = (pixelAt s.disp q ^^ decide (q ∈ s.spriteCells vx vy n))) ∧
    ((s.drawSprite vx vy n).2 = true ↔ ∃ p ∈ s.spriteCells vx vy n, pixelAt s.disp p = true) := by
  have hlt : ∀ p ∈ s.spriteCells vx vy n, p < 2048 := fun p hp => by
    obtain ⟨row, col, -, -, -, rfl⟩ := mem_spriteCells.mp hp
    exact spriteCell_lt ..
  obtain ⟨hpixels, hcollision⟩ := foldl_hitCell (nodup_spriteCells vx vy _ hn) hlt (s.disp, false)
  rw [State.drawSprite, drawRows_eq]
  exact ⟨hpixels, hcollision.trans (or_iff_right Bool.false_ne_true)⟩

theorem pixelAt_drawSprite_ne_iff {px py : Nat} (hpx : px < 64) :
    pixelAt (s.drawSprite vx vy n).1 (cellIndex px py) ≠ pixelAt s.disp (cellIndex px py) ↔
      SpriteCovers s vx vy n px py := by
  rw [(drawSprite_spec s vx vy hn).1, spriteCovers_iff hpx]
  by_cases h : cellIndex px py ∈ s.spriteCells vx vy n <;> simp [h]

theorem collision_iff : (s.drawSprite vx vy n).2 = true ↔ ∃ px py, px < 64 ∧ py < 32 ∧
    pixelAt s.disp (cellIndex px py) = true ∧ SpriteCovers s vx vy n px py := by
  rw [(drawSprite_spec s vx vy hn).2]
  constructor
  · rintro ⟨p, hp, hlit⟩
    obtain ⟨row, col, -, -, -, rfl⟩ := mem_spriteCells.mp hp
    have hx : (vx.toNat + col) % 64 < 64 := Nat.mod_lt _ (by decide)
    exact ⟨_, _, hx, Nat.mod_lt _ (by decide), hlit, (spriteCovers_iff hx).mpr hp⟩
  · rintro ⟨px, py, hpx, -, hlit, hcover⟩
    exact ⟨_, (spriteCovers_iff hpx).mp hcover, hlit⟩

/-- Drawing twice over the same cells gives back every pixel. -/
theorem drawSprite_drawSprite {t : State} (hdisp : t.disp = (s.drawSprite vx vy n).1)
    (hcells : t.spriteCells vx vy n = s.spriteCells vx vy n) : (t.drawSprite vx vy n).1 = s.disp := by
  refine display_ext fun p _ => ?_
  rw [(drawSprite_spec t vx vy hn).1, hdisp, (drawSprite_spec s vx vy hn).1, hcells, Bool.xor_assoc, Bool.xor_self,
    Bool.xor_false]

end drawn

theorem nibble_le_32 (n : Nibble) : n.toNat ≤ 32 := n.isLt.le.trans (by decide)

theorem flagByte_eq_one_iff (b : Bool) : flagByte b = 0x01#8 ↔ b = true := by
  cases b <;> decide

theorem flagByte_eq_zero_or_one (b : Bool) : flagByte b = 0x00#8 ∨ flagByte b = 0x01#8 := by
  cases b <;> decide

theorem State.getV_drawn_vf (s : State) (x y : Reg) (n : Nibble) :
    (s.drawn x y n).getV vf = flagByte (s.drawSprite (s.getV x) (s.getV y) n.toNat).2 :=
  s.advance.getV_setV_same vf _

theorem exec_cls (s : State) : exec .cls s = .next { s.advance with disp := Vector.replicate 32 0#64 } := rfl

end Sys2Proof.Machine

open Sys2Proof Sys2Proof.Machine

/-- Settles O34: the cleared display, and nothing else but PC. -/
theorem clearTurnsEveryPixelOff : Obligations.ClearTurnsEveryPixelOff :=
  fun s => ⟨_, exec_cls s, pixelAt_clear, rfl, fun _ _ => rfl, rfl, rfl⟩

/-- Settles O35: the double loop as a pass over distinct cells, with the coordinates read before VF is written. -/
theorem drawFlipsTheCoveredPixels : Obligations.DrawFlipsTheCoveredPixels := by
  intro s x y n hrange
  refine ⟨_, exec_drw_of_inRange hrange, rfl, rfl, rfl, fun px py hpx _ => ?_, ?_, ?_⟩
  · exact pixelAt_drawSprite_ne_iff s _ _ (nibble_le_32 n) hpx
  · rw [State.getV_drawn_vf]
    exact flagByte_eq_zero_or_one _
  · rw [State.getV_drawn_vf, flagByte_eq_one_iff]
    exact collision_iff s _ _ (nibble_le_32 n)

/-- Settles O36: the second draw covers the same cells, since the first changed neither I nor memory. -/
theorem drawingTwiceRestoresTheDisplay : Obligations.DrawingTwiceRestoresTheDisplay := by
  intro s t x y x' y' n hrange ht hx hy
  obtain rfl := Host.Outcome.next.inj ((exec_drw_of_inRange hrange).symm.trans ht)
  refine ⟨_, exec_drw_of_inRange hrange, ?_⟩
  change ((s.drawn x y n).drawSprite ((s.drawn x y n).getV x') ((s.drawn x y n).getV y') n.toNat).1 = s.disp
  rw [hx, hy]
  exact drawSprite_drawSprite s _ _ (nibble_le_32 n) rfl rfl

/-- Settles O48: the display cleared, or a sprite drawn with VF as the one register written. -/
theorem frameOfDisplayInstructions : Obligations.FrameOfDisplayInstructions :=
  fun s _ _ _ => ⟨⟨_, exec_cls s, rfl⟩, fun hrange =>
    ⟨_, exec_drw_of_inRange hrange, fun _ hr => s.advance.getV_setV_ne hr _, rfl⟩⟩
end

section
/-! PROOFS. The tick around an instruction (spec 40_cycle.md R90 to R99), the parked core (70_reset_and_hazards.md R247), and
the host's key edges and the timer loads (45_keypad_timers.md R184 to R186). -/

namespace Sys2Proof.Machine

/-! ### What a tick is, hypothesis by hypothesis -/

section tick
variable {s : State} {w : Word}

theorem step_of_halted (h : s.halt = true) : step s = .next s.clearOut := if_pos h

theorem step_of_no_fetch (h : s.halt = false) (hfetch : s.fetchWord = none) :
    step s = .next (s.clearOut.faulted .fetchOutOfRange s.pc.toNat) := by
  obtain ⟨h', -⟩ | ⟨-, -, hstep⟩ | ⟨w, -, hw, -⟩ := step_cases s
  · simp [h] at h'
  · exact hstep
  · simp [hfetch] at hw

theorem step_of_fetch (h : s.halt = false) (hfetch : s.fetchWord = some w) :
    step s = endTick (execWord w s.clearOut) := by
  obtain ⟨h', -⟩ | ⟨-, hnone, -⟩ | ⟨w', -, hw, hstep⟩ := step_cases s
  · simp [h] at h'
  · simp [hfetch] at hnone
  · obtain rfl : w = w' := Option.some.inj (hfetch.symm.trans hw)
    exact hstep

theorem execWord_of_decode {i : Instr} (h : decodeWord w = some i) (s : State) : execWord w s = exec i s := by
  rw [execWord, h]

theorem execWord_of_unknown (h : decodeWord w = none) (s : State) : execWord w s = execUnknown w s := by
  rw [execWord, h]

theorem endTick_of_running (h : s.halt = false) : endTick (.next s) = .next (timerPhase s) := by
  rw [endTick, h]; rfl

theorem endTick_of_halted (h : s.halt = true) : endTick (.next s) = .next s := by
  rw [endTick, h]; rfl

theorem step_of_unknown (h : s.halt = false) (hfetch : s.fetchWord = some w) (hdecode : decodeWord w = none) :
    step s = .next (timerPhase { s.clearOut.advance with out := { TickOut.quiet with unknownOpcode := some w } }) := by
  rw [step_of_fetch h hfetch, execWord_of_unknown hdecode]
  exact endTick_of_running h

/-- A parked core's tick is a jump to its own address and a timer phase with both timers at 0. -/
theorem step_of_parked (h : s.Parked) : step s = .next s.clearOut := by
  obtain ⟨hrun, hdt, hst, nnn, hfetch, hpc⟩ := h
  rw [step_of_runsAt ⟨hrun, hfetch⟩ (decodeWord_encode (.jp nnn)) (exec_jp nnn s.clearOut) rfl, ← hpc, timerPhase]
  simp [hdt, hst, countDown, State.setPc, State.clearOut, TickOut.quiet]

end tick

/-! ### Key edges (R186) -/

theorem getLsbD_keyBit (k : Fin 16) (j : Nat) : (1#16 <<< k.val).getLsbD j = decide (j = k.val) := by
  rw [← BitVec.twoPow, BitVec.getLsbD_twoPow, decide_eq_true k.isLt, Bool.true_and]
  exact decide_eq_decide.mpr eq_comm

theorem getLsbD_keyDown (s : State) (k : Fin 16) (j : Nat) :
    (keyDown k s).keys.getLsbD j = (decide (j = k.val) || s.keys.getLsbD j) := by
  rw [keyDown, BitVec.getLsbD_or, getLsbD_keyBit, Bool.or_comm]

theorem getLsbD_keyUp (s : State) (k : Fin 16) {j : Nat} (hj : j < 16) :
    (keyUp k s).keys.getLsbD j = (!decide (j = k.val) && s.keys.getLsbD j) := by
  rw [keyUp, BitVec.getLsbD_and, BitVec.getLsbD_not, getLsbD_keyBit, decide_eq_true hj, Bool.true_and, Bool.and_comm]

end Sys2Proof.Machine

open Sys2Proof Sys2Proof.Machine

/-- Settles O7: the fetch succeeds, and the decoded instruction is what runs between the clearing and the timer phase. -/
theorem stepRunsDecodedInstruction : Obligations.StepRunsDecodedInstruction := by
  intro s i hrun hpc hdecode
  have hfetch : s.fetchWord = some _ := if_pos (by omega)
  have hstep : step s = endTick (exec i s.clearOut) := by
    rw [step_of_fetch hrun hfetch, execWord_of_decode hdecode]
  exact ⟨hstep, fun t ht => by rw [hstep, ht, endTick]⟩

/-- Settles O8: the advanced state with the word reported, and a timer phase. -/
theorem unknownOpcodeIsSkippedAndReported : Obligations.UnknownOpcodeIsSkippedAndReported :=
  fun _ _ hrun hfetch hdecode => ⟨_, step_of_unknown hrun hfetch hdecode, rfl, countDown_toNat _, countDown_toNat _, rfl,
    fun _ _ => rfl, rfl, ⟨rfl, fun _ _ => rfl⟩, rfl, fun _ _ => rfl, ⟨rfl, rfl, rfl, rfl⟩, rfl⟩

/-- Settles O9: the detail, PC as a number, is PC again as a word. -/
theorem fetchPastMemoryFaults : Obligations.FetchPastMemoryFaults := by
  intro s hrun hpc
  have hdetail : BitVec.ofNat 16 s.pc.toNat = s.pc := BitVec.ofNat_toNat .. |>.trans (BitVec.setWidth_eq _)
  rw [step_of_no_fetch hrun (s.fetchWord_eq_none.mpr hpc), State.faulted, hdetail]
  rfl

/-- Settles O10, event by event: only a load sets HALT to 0. -/
theorem haltedCoreDoesNothing : Obligations.HaltedCoreDoesNothing := by
  intro s hhalt
  refine ⟨step_of_halted hhalt, fun e t ht => ?_⟩
  cases e with
  | tick =>
    obtain rfl := Host.Outcome.next.inj ((step_of_halted hhalt).symm.trans ht)
    simp [hhalt]
  | keyDown k =>
    cases ht
    simp [hhalt]
  | keyUp k =>
    cases ht
    simp [hhalt]
  | load rest font program =>
    obtain ⟨-, -, rfl⟩ := resetLoad_next.mp ht
    simp [State.reset]

/-- Settles O14: a tick begins by clearing the outputs, and HALT, which it tests before, is not one of them. -/
theorem outputsFeedBackIntoNothing : Obligations.OutputsFeedBackIntoNothing := fun _ _ => rfl

/-- Settles O42: both edges are one bit of K. -/
theorem keyEdgesChangeOneBit : Obligations.KeyEdgesChangeOneBit :=
  fun s k => ⟨⟨rfl, fun j _ => getLsbD_keyDown s k j⟩, ⟨rfl, fun _ => getLsbD_keyUp s k⟩⟩

/-- Settles O49: each is one timer written over the advanced state. -/
theorem frameOfTimerWrites : Obligations.FrameOfTimerWrites :=
  fun s x => ⟨⟨_, exec_setDelay x s, rfl⟩, ⟨_, exec_setSound x s, rfl⟩⟩

/-- Settles O56: the jump goes to its own address, and two timers at 0 stay there. -/
theorem parkedCoreStaysAsItIs : Obligations.ParkedCoreStaysAsItIs := fun _ => step_of_parked
end

section
/-! PROOFS. What an execution can do, said once for every instruction and state: it raises the fault that the table of R200
gives (60_exceptions.md), or it completes, and then changes only what the spec names the instruction as a writer of
(10_state.md, 40_cycle.md R97). -/

namespace Sys2Proof.Machine

/-! ### The table of faults, for an instruction -/

/-- The fault an instruction raises and its detail, by the table of R200: `State.tableFault` behind the fetch. -/
def State.instrFault (s : State) : Instr → Option (FaultCause × Nat)
  | .call _ => if s.sp.val = 16 then some (.stackOverflow, 16) else none
  | .ret => if s.sp.val = 0 then some (.stackUnderflow, 0) else none
  | .drw _ _ n =>
    if 0 < n.toNat ∧ 4095 < s.i.toNat + n.toNat - 1 then some (.dataOutOfRange, s.i.toNat + n.toNat - 1) else none
  | .bcd _ => if 4095 < s.i.toNat + 2 then some (.dataOutOfRange, s.i.toNat + 2) else none
  | .stm x | .ldm x => if 4095 < s.i.toNat + x.toNat then some (.dataOutOfRange, s.i.toNat + x.toNat) else none
  | .skp x | .sknp x => if 15 < (s.getV x).toNat then some (.keyIndexOutOfRange, (s.getV x).toNat) else none
  | _ => none

section table
variable {s : State} {w : Word}

theorem tableFault_of_no_fetch (h : s.fetchWord = none) : s.tableFault = some (.fetchOutOfRange, s.pc.toNat) := by
  rw [State.tableFault, h]

theorem tableFault_of_unknown (h : s.fetchWord = some w) (hdecode : decodeWord w = none) : s.tableFault = none := by
  simp only [State.tableFault, h, hdecode]

theorem tableFault_of_decode {i : Instr} (h : s.fetchWord = some w) (hdecode : decodeWord w = some i) :
    s.tableFault = s.instrFault i := by
  simp only [State.tableFault, h, hdecode]
  cases i <;> rfl

end table

/-! ### An execution that completes -/

/-- Where a completed instruction leaves PC: at itself (WKEY), after it, one word further (a skip), at a jump's target, or at
a return address on the stack. -/
def PcAfter (s t : State) : Prop :=
  t.pc = s.pc ∨ t.pc = s.pcNext ∨ t.pc = s.pcNext + 2#16 ∨
    (∃ (nnn : Addr12) (b : Byte), t.pc = zextAddr nnn + zextByte b) ∨ ∃ k : Fin 16, k.val < s.sp.val ∧ t.pc = s.stackAt k

/-- How an instruction phase goes on that raises no fault, an unknown opcode's included: what it leaves in PC, in memory's
form and on the stack, with the fault registers and the keypad as they were. -/
structure Proceeds (s t : State) : Prop where
  fault_and_keys : SameFaultAndKeys s t
  pc : PcAfter s t
  mem_wf : s.mem.wf → t.mem.wf
  entries : ∀ k : Fin 16, k.val < t.sp.val → t.stackAt k = s.pcNext ∨ (k.val < s.sp.val ∧ t.stackAt k = s.stackAt k)

/-- An instruction that completes, and has changed only what the spec lists it as a writer of. -/
structure Completes (i : Instr) (s t : State) : Prop extends Proceeds s t where
  regs : SameRegs (fun r => Instr.mayWrite r i = true) s t
  dt : t.dt ≠ s.dt → ∃ x, i = .setDelay x
  st : t.st ≠ s.st → ∃ x, i = .setSound x
  index : t.i ≠ s.i → (∃ nnn, i = .ldIndex nnn) ∨ (∃ x, i = .addIndex x) ∨ (∃ x, i = .font x)
  disp : t.disp ≠ s.disp → i = .cls ∨ ∃ x y n, i = .drw x y n
  mem : t.mem ≠ s.mem → (∃ x, i = .bcd x) ∨ ∃ x, i = .stm x
  stack : t.sp ≠ s.sp ∨ t.stack ≠ s.stack → i = .ret ∨ ∃ nnn, i = .call nnn
  draws : t.draws ≠ s.draws → ∃ x nn, i = .rnd x nn

section completes
variable {i : Instr} {s t : State}

/-- What changes registers in the instruction's list, and PC, completes. -/
theorem completes_of_regs (h : t = { s with v := t.v, pc := t.pc }) (hpc : PcAfter s t)
    (hregs : SameRegs (fun r => Instr.mayWrite r i = true) s t) : Completes i s t := by
  obtain ⟨v, pc, rfl⟩ : ∃ v pc, t = { s with v := v, pc := pc } := ⟨_, _, h⟩
  exact {
    fault_and_keys := ⟨rfl, rfl, rfl, rfl⟩
    pc := hpc
    regs := hregs
    dt := fun h => absurd rfl h
    st := fun h => absurd rfl h
    index := fun h => absurd rfl h
    disp := fun h => absurd rfl h
    mem := fun h => absurd rfl h
    mem_wf := id
    stack := fun h => h.elim (absurd rfl) (absurd rfl)
    entries := fun _ hk => .inr ⟨hk, rfl⟩
    draws := fun h => absurd rfl h }

theorem completes_setPc {target : Word} (hpc : PcAfter s (s.setPc target)) : Completes i s (s.setPc target) :=
  completes_of_regs rfl hpc fun _ _ => rfl

theorem completes_skipIf (c : Bool) : Completes i s (s.skipIf c) := by
  cases c
  · exact completes_setPc (.inr (.inl rfl))
  · exact completes_setPc (.inr (.inr (.inl rfl)))

/-- The advanced state, over which the instructions are stated that write other state than registers and PC. -/
theorem completes_advance (i : Instr) (s : State) : Completes i s s.advance := completes_setPc (.inr (.inl rfl))

theorem completes_setV {x : Reg} (hx : ∀ r, r = x → Instr.mayWrite r i = true) (b : Byte) :
    Completes i s (s.advance.setV x b) :=
  completes_of_regs rfl (.inr (.inl rfl)) fun r hr => s.advance.getV_setV_ne (mt (hx r) hr) b

theorem completes_resultThenFlag {x : Reg} (hx : ∀ r, r = x ∨ r = vf → Instr.mayWrite r i = true) (b : Byte) (f : Bool) :
    Completes i s (s.advance.resultThenFlag x b f) :=
  completes_of_regs rfl (.inr (.inl rfl)) fun r hr => s.advance.getV_resultThenFlag_ne (mt (hx r) hr) b f

theorem completes_flagThenResult {x : Reg} (hx : ∀ r, r = x ∨ r = vf → Instr.mayWrite r i = true) (f : Bool) (b : Byte) :
    Completes i s (s.advance.flagThenResult x f b) :=
  completes_of_regs rfl (.inr (.inl rfl)) fun r hr => s.advance.getV_flagThenResult_ne (mt (hx r) hr) f b

theorem completes_writeBytes (hi : (∃ x, i = .bcd x) ∨ ∃ x, i = .stm x) (a : Nat) (bs : List Byte) :
    Completes i s (s.advance.writeBytes a bs) := by
  have hwf : s.mem.wf → (s.advance.writeBytes a bs).mem.wf := fun h => State.writeBytes_wf (s := s.advance) h a bs
  rw [State.writeBytes_eq]
  exact { completes_advance i s with mem := fun _ => hi, mem_wf := hwf }

end completes

theorem completes_ldm (x : Reg) (s : State) : Completes (.ldm x) s (s.advance.loadRegs s.i.toNat (x.toNat + 1)) := by
  refine completes_of_regs (s.advance_loadRegs_eq _ _) (.inr (.inl (State.loadRegs_pc ..))) fun r hr => ?_
  rw [State.getV_advance_loadRegs, if_neg (fun h => hr (decide_eq_true h))]

theorem completes_rnd (x : Reg) (nn : Byte) (s : State) :
    Completes (.rnd x nn) s { rndWith (Config.randIn s.draws) x nn s with draws := s.draws + 1 } :=
  { completes_setV (i := .rnd x nn) (s := s) (fun _ => beq_iff_eq.mpr) (Config.randIn s.draws &&& nn) with
    draws := fun _ => ⟨x, nn, rfl⟩ }

theorem completes_drw (x y : Reg) (n : Nibble) (s : State) : Completes (.drw x y n) s (s.drawn x y n) :=
  { completes_setV (i := .drw x y n) (s := s) (fun _ => beq_iff_eq.mpr) _ with disp := fun _ => .inr ⟨x, y, n, rfl⟩ }

theorem pcAfter_jp (s : State) (nnn : Addr12) : PcAfter s (s.setPc (zextAddr nnn)) :=
  .inr (.inr (.inr (.inl ⟨nnn, 0x00#8, (BitVec.add_zero _).symm⟩)))

theorem completes_call {s : State} (nnn : Addr12) (h : s.sp.val < 16) :
    Completes (.call nnn) s ((s.push s.pcNext h).setPc (zextAddr nnn)) :=
  { completes_setPc (i := .call nnn) (pcAfter_jp s nnn) with
    stack := fun _ => .inr ⟨nnn, rfl⟩
    entries := fun k hk => by
      have hk : k.val < s.sp.val + 1 := hk
      rw [State.stackAt_setPc, State.stackAt_push]
      split
      · exact .inl rfl
      · exact .inr ⟨by omega, rfl⟩ }

theorem completes_ret {s : State} (h : 0 < s.sp.val) :
    Completes .ret s ((s.pop h).setPc (s.stackAt (s.topIndex h))) :=
  { completes_setPc (i := .ret) (s := s) (.inr (.inr (.inr (.inr ⟨_, Nat.sub_lt h Nat.one_pos, rfl⟩)))) with
    stack := fun _ => .inl rfl
    entries := fun _ hk => .inr ⟨Nat.lt_of_lt_of_le hk (Nat.sub_le _ _), rfl⟩ }

/-! ### Every execution -/

/-- The registers that a flag-setting instruction may write, as its list has them (R21). -/
theorem mem_resultAndFlag {x r : Reg} (h : r = x ∨ r = vf) : (r == x || r == vf) = true := by
  simpa using h

/-- An instruction raises the fault of the table, or completes where the table has none. -/
theorem exec_cases (i : Instr) (s : State) :
    (∃ c d, s.instrFault i = some (c, d) ∧ exec i s = .next (s.faulted c d)) ∨
    (s.instrFault i = none ∧ ∃ t, exec i s = .next t ∧ Completes i s t) := by
  cases i with
  | cls => exact .inr ⟨rfl, _, exec_cls s, { completes_advance .cls s with disp := fun _ => .inl rfl }⟩
  | ret =>
    by_cases h : s.sp.val = 0
    · exact .inl ⟨_, _, if_pos h, exec_ret_of_empty h⟩
    · exact .inr ⟨if_neg h, _, exec_ret_of_pos (by omega), completes_ret _⟩
  | jp nnn => exact .inr ⟨rfl, _, exec_jp nnn s, completes_setPc (pcAfter_jp s nnn)⟩
  | call nnn =>
    by_cases h : s.sp.val = 16
    · exact .inl ⟨_, _, if_pos h, exec_call_of_full nnn h⟩
    · exact .inr ⟨if_neg h, _, exec_call_of_room nnn (by omega), completes_call nnn _⟩
  | seImm x nn => exact .inr ⟨rfl, _, exec_seImm x nn s, completes_skipIf _⟩
  | sneImm x nn => exact .inr ⟨rfl, _, exec_sneImm x nn s, completes_skipIf _⟩
  | seReg x y => exact .inr ⟨rfl, _, exec_seReg x y s, completes_skipIf _⟩
  | ldImm x nn => exact .inr ⟨rfl, _, exec_ldImm x nn s, completes_setV (fun _ => beq_iff_eq.mpr) _⟩
  | addImm x nn => exact .inr ⟨rfl, _, exec_addImm x nn s, completes_setV (fun _ => beq_iff_eq.mpr) _⟩
  | ldReg x y => exact .inr ⟨rfl, _, exec_ldReg x y s, completes_setV (fun _ => beq_iff_eq.mpr) _⟩
  | orReg x y => exact .inr ⟨rfl, _, exec_orReg x y s, completes_setV (fun _ => beq_iff_eq.mpr) _⟩
  | andReg x y => exact .inr ⟨rfl, _, exec_andReg x y s, completes_setV (fun _ => beq_iff_eq.mpr) _⟩
  | xorReg x y => exact .inr ⟨rfl, _, exec_xorReg x y s, completes_setV (fun _ => beq_iff_eq.mpr) _⟩
  | addReg x y => exact .inr ⟨rfl, _, exec_addReg x y s, completes_resultThenFlag (fun _ => mem_resultAndFlag) _ _⟩
  | subReg x y => exact .inr ⟨rfl, _, exec_subReg x y s, completes_resultThenFlag (fun _ => mem_resultAndFlag) _ _⟩
  | shr x y => exact .inr ⟨rfl, _, exec_shr x y s, completes_flagThenResult (fun _ => mem_resultAndFlag) _ _⟩
  | subn x y => exact .inr ⟨rfl, _, exec_subn x y s, completes_resultThenFlag (fun _ => mem_resultAndFlag) _ _⟩
  | shl x y => exact .inr ⟨rfl, _, exec_shl x y s, completes_flagThenResult (fun _ => mem_resultAndFlag) _ _⟩
  | sneReg x y => exact .inr ⟨rfl, _, exec_sneReg x y s, completes_skipIf _⟩
  | ldIndex nnn =>
    exact .inr ⟨rfl, _, exec_ldIndex nnn s, { completes_advance _ s with index := fun _ => .inl ⟨nnn, rfl⟩ }⟩
  | jpV0 nnn => exact .inr ⟨rfl, _, exec_jpV0 nnn s, completes_setPc (.inr (.inr (.inr (.inl ⟨nnn, _, rfl⟩))))⟩
  | rnd x nn => exact .inr ⟨rfl, _, exec_rnd x nn s, completes_rnd x nn s⟩
  | drw x y n =>
    by_cases h : 0 < n.toNat ∧ 4095 < s.i.toNat + n.toNat - 1
    · exact .inl ⟨_, _, if_pos h, exec_drw_of_outOfRange h.1 h.2⟩
    · exact .inr ⟨if_neg h, _, exec_drw_of_inRange (by omega), completes_drw x y n s⟩
  | skp x =>
    by_cases h : 15 < (s.getV x).toNat
    · exact .inl ⟨_, _, if_pos h, exec_skp_of_no_key h⟩
    · exact .inr ⟨if_neg h, _, exec_skp_of_key (by omega), completes_skipIf _⟩
  | sknp x =>
    by_cases h : 15 < (s.getV x).toNat
    · exact .inl ⟨_, _, if_pos h, exec_sknp_of_no_key h⟩
    · exact .inr ⟨if_neg h, _, exec_sknp_of_key (by omega), completes_skipIf _⟩
  | ldDelay x => exact .inr ⟨rfl, _, exec_ldDelay x s, completes_setV (fun _ => beq_iff_eq.mpr) _⟩
  | waitKey x =>
    cases hkey : lowestKey s.keys with
    | none =>
      exact .inr ⟨rfl, s, exec_waitKey_of_no_key x (lowestKey_none_iff.mp hkey), completes_setPc (.inl rfl)⟩
    | some k => exact .inr ⟨rfl, _, exec_waitKey_of_key x hkey, completes_setV (fun _ => beq_iff_eq.mpr) _⟩
  | setDelay x => exact .inr ⟨rfl, _, exec_setDelay x s, { completes_advance _ s with dt := fun _ => ⟨x, rfl⟩ }⟩
  | setSound x => exact .inr ⟨rfl, _, exec_setSound x s, { completes_advance _ s with st := fun _ => ⟨x, rfl⟩ }⟩
  | addIndex x =>
    exact .inr ⟨rfl, _, exec_addIndex x s, { completes_advance _ s with index := fun _ => .inr (.inl ⟨x, rfl⟩) }⟩
  | font x => exact .inr ⟨rfl, _, exec_font x s, { completes_advance _ s with index := fun _ => .inr (.inr ⟨x, rfl⟩) }⟩
  | bcd x =>
    by_cases h : 4095 < s.i.toNat + 2
    · exact .inl ⟨_, _, if_pos h, exec_bcd_of_outOfRange h⟩
    · exact .inr ⟨if_neg h, _, exec_bcd_of_inRange (by omega), completes_writeBytes (.inl ⟨x, rfl⟩) _ _⟩
  | stm x =>
    by_cases h : 4095 < s.i.toNat + x.toNat
    · exact .inl ⟨_, _, if_pos h, exec_stm_of_outOfRange h⟩
    · exact .inr ⟨if_neg h, _, exec_stm_of_inRange (by omega), completes_writeBytes (.inr ⟨x, rfl⟩) _ _⟩
  | ldm x =>
    by_cases h : 4095 < s.i.toNat + x.toNat
    · exact .inl ⟨_, _, if_pos h, exec_ldm_of_outOfRange h⟩
    · exact .inr ⟨if_neg h, _, exec_ldm_of_inRange (by omega), completes_ldm x s⟩

theorem exec_next {i : Instr} {s t : State} (h : exec i s = .next t) :
    (∃ c d, s.instrFault i = some (c, d) ∧ t = s.faulted c d) ∨ Completes i s t := by
  obtain ⟨c, d, hfault, he⟩ | ⟨-, u, he, hu⟩ := exec_cases i s
  · exact .inl ⟨c, d, hfault, Host.Outcome.next.inj (h.symm.trans he)⟩
  · obtain rfl := Host.Outcome.next.inj (h.symm.trans he)
    exact .inr hu

theorem proceeds_unknown (w : Word) (s : State) :
    Proceeds s { s.advance with out := { s.out with unknownOpcode := some w } } :=
  ⟨⟨rfl, rfl, rfl, rfl⟩, .inr (.inl rfl), id, fun _ hk => .inr ⟨hk, rfl⟩⟩

/-- A running core's tick raises the fault of the table, or ends with the timer phase an instruction phase that raised
none. -/
theorem tick_cases {s : State} (hrun : s.halt = false) :
    (∃ c d, s.tableFault = some (c, d) ∧ step s = .next (s.clearOut.faulted c d)) ∨
    (s.tableFault = none ∧ ∃ u, step s = .next (timerPhase u) ∧ Proceeds s.clearOut u) := by
  cases hfetch : s.fetchWord with
  | none => exact .inl ⟨_, _, tableFault_of_no_fetch hfetch, step_of_no_fetch hrun hfetch⟩
  | some w =>
    cases hdecode : decodeWord w with
    | none =>
      exact .inr ⟨tableFault_of_unknown hfetch hdecode, _, step_of_unknown hrun hfetch hdecode,
        proceeds_unknown w s.clearOut⟩
    | some i =>
      have htable := tableFault_of_decode hfetch hdecode
      have hstep : step s = endTick (exec i s.clearOut) := by
        rw [step_of_fetch hrun hfetch, execWord_of_decode hdecode]
      obtain ⟨c, d, hfault, he⟩ | ⟨hfault, u, he, hu⟩ := exec_cases i s.clearOut
      · refine .inl ⟨c, d, htable.trans hfault, ?_⟩
        rw [hstep, he]
        exact endTick_of_halted rfl
      · refine .inr ⟨htable.trans hfault, u, ?_, hu.toProceeds⟩
        rw [hstep, he]
        exact endTick_of_running (hu.fault_and_keys.1.trans hrun)

end Sys2Proof.Machine

open Sys2Proof Sys2Proof.Machine

/-- Settles O12: a halted tick, one that raises a fault and one that raises none each answer a next state. -/
theorem everyTickAnswersANextState : Obligations.EveryTickAnswersANextState := by
  intro s
  cases hhalt : s.halt with
  | true => exact ⟨_, step_of_halted hhalt⟩
  | false =>
    obtain ⟨_, _, -, hstep⟩ | ⟨-, _, hstep, -⟩ := tick_cases hhalt
    · exact ⟨_, hstep⟩
    · exact ⟨_, hstep⟩

/-- Settles O13: the two cases of a running core's tick. -/
theorem ticksFaultExactlyAsTheTableSays : Obligations.TicksFaultExactlyAsTheTableSays := by
  intro s hrun
  obtain ⟨c, d, htable, hstep⟩ | ⟨htable, u, hstep, hu⟩ := tick_cases hrun
  · refine ⟨fun c' d' h => ?_, fun h => ?_⟩
    · cases htable.symm.trans h
      exact hstep
    · simp [htable] at h
  · refine ⟨fun c' d' h => ?_, fun _ => ?_⟩
    · simp [htable] at h
    · obtain ⟨hhalt, hcause, hinfo, -⟩ := hu.fault_and_keys
      exact ⟨_, hstep, hhalt.trans hrun, hcause, hinfo⟩

/-- Settles O11: the timer phase ends a tick that raises no fault and no other, and several phases count down by as many. -/
theorem timersCountDownAtTheEndOfATick : Obligations.TimersCountDownAtTheEndOfATick := by
  refine ⟨?ends, ?skips, fun s n =>
    ⟨dt_iterate_timerPhase n s, st_iterate_timerPhase n s, beep_iterate_timerPhase_succ n s⟩⟩
  case ends =>
    intro s u w hrun hfetch hexec hhalt
    refine ⟨timerPhase u, ?_, countDown_toNat _, countDown_toNat _, beq_iff_eq, rfl⟩
    rw [step_of_fetch hrun hfetch, hexec, endTick_of_running hhalt]
  case skips =>
    intro s t ht hhalt
    cases hs : s.halt with
    | true =>
      obtain rfl := Host.Outcome.next.inj ((step_of_halted hs).symm.trans ht)
      exact ⟨rfl, rfl, rfl⟩
    | false =>
      obtain ⟨c, d, -, hstep⟩ | ⟨-, u, hstep, hu⟩ := tick_cases hs
      · obtain rfl := Host.Outcome.next.inj (hstep.symm.trans ht)
        exact ⟨rfl, rfl, rfl⟩
      · obtain rfl := Host.Outcome.next.inj (hstep.symm.trans ht)
        obtain ⟨hsame, -⟩ := hu.fault_and_keys
        simp [hsame, hs] at hhalt

/-- Settles O50: a fault writes none of these pieces of state, and an instruction that completes only its own. -/
theorem onlyTheNamedInstructionsWrite : Obligations.OnlyTheNamedInstructionsWrite := by
  intro i s t h
  obtain ⟨c, d, -, rfl⟩ | hc := exec_next h
  · exact ⟨rfl, absurd rfl, absurd rfl, absurd rfl, absurd rfl, absurd rfl, Or.rec (absurd rfl) (absurd rfl), absurd rfl⟩
  · obtain ⟨-, -, -, hkeys⟩ := hc.fault_and_keys
    exact ⟨hkeys, hc.dt, hc.st, hc.index, hc.disp, hc.mem, hc.stack, hc.draws⟩

/-- Settles O51: a fault writes no register, and an instruction that completes only those in its list. -/
theorem registersChangeOnlyUnderTheirWriters : Obligations.RegistersChangeOnlyUnderTheirWriters := by
  intro i s t r h hne
  obtain ⟨c, d, -, rfl⟩ | hc := exec_next h
  · exact absurd rfl hne
  · by_contra hlist
    exact hne (hc.regs r hlist)
end

section
/-! PROOFS. The invariant (`State.Inv`; spec 10_state.md R23, R33, 41_control_flow.md R110, 60_exceptions.md R206): each way a
tick can end keeps it, and so does each act of the host. -/

namespace Sys2Proof.Machine

/-! ### Where PC can get -/

theorem toNat_pcNext {s : State} (h : s.pc.toNat ≤ 0xFFE) : s.pcNext.toNat = s.pc.toNat + 2 := by
  rw [State.pcNext, BitVec.toNat_add]
  simp
  omega

/-- After an instruction fetched from memory PC is at most 0x10FE, JP.V0's largest target (R23, R117). -/
theorem pc_le_of_pcAfter {s t : State} (hpc : s.pc.toNat ≤ 0xFFE)
    (hstack : ∀ k : Fin 16, k.val < s.sp.val → (s.stackAt k).toNat ≤ 0x1000) (h : PcAfter s t) : t.pc.toNat ≤ 0x10FE := by
  have hnext := toNat_pcNext hpc
  obtain h | h | h | ⟨nnn, b, h⟩ | ⟨k, hk, h⟩ := h
  · rw [h]; omega
  · rw [h]; omega
  · rw [h]; bv_omega
  · have := nnn.isLt
    have := b.isLt
    rw [h, toNat_jpV0_target]
    omega
  · rw [h]
    exact (hstack k hk).trans (by decide)

/-! ### Each way a tick can end -/

section inv
variable {s t : State} (h : s.Inv)
include h

theorem inv_clearOut : s.clearOut.Inv := ⟨h.mem_wf, h.pc_le, h.stack_le, h.running, h.halted⟩

theorem inv_timerPhase : (timerPhase s).Inv := ⟨h.mem_wf, h.pc_le, h.stack_le, h.running, h.halted⟩

theorem inv_faulted (c : FaultCause) (d : Nat) : (s.faulted c d).Inv where
  mem_wf := h.mem_wf
  pc_le := h.pc_le
  stack_le := h.stack_le
  running hrun := nomatch hrun
  halted _ := ⟨(causeCode_range c).1, (causeCode_range c).2, s.faulted_info_pc c d⟩

theorem inv_of_proceeds (hrun : s.halt = false) (hpc : s.pc.toNat ≤ 0xFFE) (hp : Proceeds s t) : t.Inv := by
  obtain ⟨hhalt, hcause, hinfo, -⟩ := hp.fault_and_keys
  refine ⟨hp.mem_wf h.mem_wf, pc_le_of_pcAfter hpc h.stack_le hp.pc, fun k hk => ?_, fun _ => ?_, fun ht => ?_⟩
  · obtain he | ⟨hk', he⟩ := hp.entries k hk
    · rw [he, toNat_pcNext hpc]; omega
    · rw [he]; exact h.stack_le k hk'
  · rw [hcause, hinfo]; exact h.running hrun
  · simp [hhalt, hrun] at ht

theorem inv_step (ht : step s = .next t) : t.Inv := by
  cases hhalt : s.halt with
  | true =>
    obtain rfl := Host.Outcome.next.inj ((step_of_halted hhalt).symm.trans ht)
    exact inv_clearOut h
  | false =>
    obtain ⟨c, d, -, hstep⟩ | ⟨htable, u, hstep, hu⟩ := tick_cases hhalt
    · obtain rfl := Host.Outcome.next.inj (hstep.symm.trans ht)
      exact inv_faulted (inv_clearOut h) c d
    · obtain rfl := Host.Outcome.next.inj (hstep.symm.trans ht)
      have hpc : s.pc.toNat ≤ 0xFFE := by
        by_contra hpc
        simp [tableFault_of_no_fetch (s.fetchWord_eq_none.mpr (by omega))] at htable
      exact inv_timerPhase (inv_of_proceeds (inv_clearOut h) hhalt hpc hu)

end inv

/-! ### The host's other acts -/

theorem inv_reset : State.reset.Inv where
  mem_wf := ⟨List.Pairwise.nil, fun _ hc => nomatch hc⟩
  pc_le := by decide
  stack_le _ hk := absurd hk (Nat.not_lt_zero _)
  running _ := ⟨rfl, rfl⟩
  halted hhalt := nomatch hhalt

/-- A load leaves the reset state but for memory, which it makes in canonical form. -/
theorem inv_loaded (rest : Memory) (font program : List Byte) (draws : Nat) :
    (State.loaded rest font program draws).Inv := by
  refine ⟨?_, ?_, fun k hk => ?_, fun _ => ?_, fun hhalt => ?_⟩
  · rw [State.loaded_mem]; exact Memory.load_wf rest font program
  · rw [State.loaded_pc]; exact inv_reset.pc_le
  · exact absurd hk (Nat.not_lt_zero _)
  · exact ⟨rfl, rfl⟩
  · cases hhalt

theorem inv_applyEvent {s t : State} (h : s.Inv) {e : Event} (ht : applyEvent s e = .next t) : t.Inv := by
  cases e with
  | tick => exact inv_step h ht
  | keyDown k =>
    cases ht
    exact ⟨h.mem_wf, h.pc_le, h.stack_le, h.running, h.halted⟩
  | keyUp k =>
    cases ht
    exact ⟨h.mem_wf, h.pc_le, h.stack_le, h.running, h.halted⟩
  | load rest font program =>
    obtain ⟨-, -, rfl⟩ := resetLoad_next.mp ht
    exact inv_loaded rest font program s.draws

/-- A run that answers a state passed through the state its first act answered. -/
theorem runEvents_cons_next {s t : State} {e : Event} {es : List Event} (h : runEvents s (e :: es) = .next t) :
    ∃ u, applyEvent s e = .next u ∧ runEvents u es = .next t := by
  rw [runEvents] at h
  cases hu : applyEvent s e with
  | next u => exact ⟨u, rfl, by rwa [hu] at h⟩
  | fault r => rw [hu] at h; cases h
  | refused r => rw [hu] at h; cases h

end Sys2Proof.Machine

open Sys2Proof Sys2Proof.Machine

/-- Settles O52: the three ways a tick can end. -/
theorem everyTickKeepsTheInvariant : Obligations.EveryTickKeepsTheInvariant := fun _ _ => inv_step

/-- Settles O53, by induction on the acts of the host. -/
theorem everyRunKeepsTheInvariant : Obligations.EveryRunKeepsTheInvariant := by
  intro es
  induction es with
  | nil =>
    rintro s t h ⟨⟩
    exact h
  | cons e es ih =>
    intro s t h ht
    obtain ⟨u, hu, hrest⟩ := runEvents_cons_next ht
    exact ih u t (inv_applyEvent h hu) hrest

/-- Settles O54: nothing is listed in memory, nothing is stacked, and no fault is recorded. -/
theorem invariantHoldsAtReset : Obligations.InvariantHoldsAtReset := inv_reset
end

section
/-! PROOFS. Call-stack entries at or above SP are unobservable (spec 10_state.md R24): nothing but RET reads an entry, and it
reads the one below SP. -/

namespace Sys2Proof.Machine

/-- The state with another stack. -/
def State.withStack (s : State) (k : Vector Word 16) : State := { s with stack := k }

/-- A stack with the state's entries below SP. -/
def SameLive (s : State) (k : Vector Word 16) : Prop := ∀ j : Fin 16, j.val < s.sp.val → k[j.val] = s.stackAt j

theorem sameButDeadStack_iff {s t : State} : SameButDeadStack s t ↔ ∃ k, t = s.withStack k ∧ SameLive s k := by
  constructor
  · rintro ⟨h, hlive⟩
    exact ⟨t.stack, h, hlive⟩
  · rintro ⟨k, rfl, hlive⟩
    exact ⟨rfl, hlive⟩

/-- Both answer a next state, and the two states differ at most in dead entries of the call stack. -/
def SameButDeadResult (r r' : Result) : Prop := ∃ t t', r = .next t ∧ r' = .next t' ∧ SameButDeadStack t t'

theorem SameButDeadResult.ite {c : Prop} [Decidable c] {a b a' b' : Result} (ha : SameButDeadResult a a')
    (hb : SameButDeadResult b b') : SameButDeadResult (if c then a else b) (if c then a' else b') := by
  split
  · exact ha
  · exact hb

theorem State.writeBytes_withStack (s : State) (k : Vector Word 16) (a : Nat) (bs : List Byte) :
    (s.withStack k).writeBytes a bs = (s.writeBytes a bs).withStack k := by
  induction bs generalizing s a with
  | nil => rfl
  | cons b bs ih => exact ih (s.writeByte a b) (a + 1)

theorem State.loadRegs_withStack (s : State) (k : Vector Word 16) (a n : Nat) :
    (s.withStack k).loadRegs a n = (s.loadRegs a n).withStack k := by
  induction n with
  | zero => rfl
  | succ n ih => rw [State.loadRegs, ih]; rfl

section exec
variable {s : State} {k : Vector Word 16} (hlive : SameLive s k)
include hlive

/-- A next state with SP and the stack as they were, and the same with the other stack. -/
theorem SameLive.next {t : State} (hsp : t.sp = s.sp) (hstack : t.stack = s.stack) :
    SameButDeadResult (.next t) (.next (t.withStack k)) := by
  refine ⟨_, _, rfl, rfl, sameButDeadStack_iff.mpr ⟨k, rfl, fun j hj => ?_⟩⟩
  rw [hsp] at hj
  rw [State.stackAt, hstack]
  exact hlive j hj

theorem SameLive.raise (c : FaultCause) (d : Nat) : SameButDeadResult (raise c d s) (raise c d (s.withStack k)) :=
  hlive.next (t := s.faulted c d) rfl rfl

theorem SameLive.writeBytes (a : Nat) (bs : List Byte) :
    SameButDeadResult (.next (s.advance.writeBytes a bs)) (.next ((s.withStack k).advance.writeBytes a bs)) := by
  have h := hlive.next (t := s.advance.writeBytes a bs) (State.writeBytes_sp ..) (State.writeBytes_stack ..)
  rwa [← State.writeBytes_withStack] at h

theorem SameLive.loadRegs (a n : Nat) :
    SameButDeadResult (.next (s.advance.loadRegs a n)) (.next ((s.withStack k).advance.loadRegs a n)) := by
  have h := hlive.next (t := s.advance.loadRegs a n) (State.loadRegs_sp ..) (State.loadRegs_stack ..)
  rwa [← State.loadRegs_withStack] at h

theorem SameLive.waitKey (x : Reg) : SameButDeadResult (exec (.waitKey x) s) (exec (.waitKey x) (s.withStack k)) := by
  cases hkey : lowestKey s.keys with
  | none =>
    have hkeys := lowestKey_none_iff.mp hkey
    rw [exec_waitKey_of_no_key x hkeys, exec_waitKey_of_no_key (s := s.withStack k) x hkeys]
    exact hlive.next rfl rfl
  | some j =>
    rw [exec_waitKey_of_key x hkey, exec_waitKey_of_key (s := s.withStack k) x hkey]
    exact hlive.next (t := s.advance.setV x _) rfl rfl

/-- A push writes the entry at SP alike in both. -/
theorem SameLive.call (nnn : Addr12) :
    SameButDeadResult (exec (.call nnn) s) (exec (.call nnn) (s.withStack k)) := by
  by_cases h : s.sp.val < 16
  · have h' : (s.withStack k).sp.val < 16 := h
    refine ⟨_, _, exec_call_of_room nnn h, exec_call_of_room nnn h', rfl, fun j hj => ?_⟩
    have hj : j.val < s.sp.val + 1 := hj
    rw [State.stackAt_setPc, State.stackAt_setPc, State.stackAt_push, State.stackAt_push]
    by_cases htop : j.val = s.sp.val
    · exact (if_pos htop).trans (if_pos htop).symm
    · exact (if_neg htop).trans ((hlive j (by omega)).trans (if_neg htop).symm)
  · have hfull : s.sp.val = 16 := by omega
    rw [exec_call_of_full nnn hfull, exec_call_of_full (s := s.withStack k) nnn hfull]
    exact hlive.raise .stackOverflow 16

/-- A pop reads the entry below SP, which is the same in both. -/
theorem SameLive.ret : SameButDeadResult (exec .ret s) (exec .ret (s.withStack k)) := by
  by_cases h : 0 < s.sp.val
  · have htop : (s.withStack k).stackAt (s.topIndex h) = s.stackAt (s.topIndex h) :=
      hlive _ (Nat.sub_lt h Nat.one_pos)
    refine ⟨_, _, exec_ret_of_pos h, exec_ret_of_pos (s := s.withStack k) h, ?_,
      fun j hj => hlive j (Nat.lt_of_lt_of_le hj (Nat.sub_le _ _))⟩
    exact congrArg (((s.withStack k).pop h).setPc) htop
  · have hempty : s.sp.val = 0 := by omega
    rw [exec_ret_of_empty hempty, exec_ret_of_empty (s := s.withStack k) hempty]
    exact hlive.raise .stackUnderflow 0

/-- An instruction answers alike from both, dead entries aside. -/
theorem SameLive.exec (i : Instr) : SameButDeadResult (exec i s) (exec i (s.withStack k)) := by
  cases i with
  | ret => exact hlive.ret
  | call nnn => exact hlive.call nnn
  | waitKey x => exact hlive.waitKey x
  | skp x => exact .ite (hlive.next (t := s.skipIf _) rfl rfl) (hlive.raise ..)
  | sknp x => exact .ite (hlive.next (t := s.skipIf _) rfl rfl) (hlive.raise ..)
  | drw x y n => exact .ite (hlive.next (t := s.drawn x y n) rfl rfl) (hlive.raise ..)
  | bcd x => exact .ite (hlive.writeBytes ..) (hlive.raise ..)
  | stm x => exact .ite (hlive.writeBytes ..) (hlive.raise ..)
  | ldm x => exact .ite (hlive.loadRegs ..) (hlive.raise ..)
  | _ => exact ⟨_, _, rfl, rfl, rfl, hlive⟩

end exec

/-! ### The tick -/

theorem SameButDeadResult.endTick {r r' : Result} (h : SameButDeadResult r r') :
    SameButDeadResult (endTick r) (endTick r') := by
  obtain ⟨t, _, rfl, rfl, h⟩ := h
  obtain ⟨k, rfl, hlive⟩ := sameButDeadStack_iff.mp h
  cases hhalt : t.halt with
  | true =>
    rw [endTick_of_halted hhalt, endTick_of_halted (s := t.withStack k) hhalt]
    exact hlive.next rfl rfl
  | false =>
    rw [endTick_of_running hhalt, endTick_of_running (s := t.withStack k) hhalt]
    exact hlive.next (t := timerPhase t) rfl rfl

theorem SameLive.step {s : State} {k : Vector Word 16} (hlive : SameLive s k) :
    SameButDeadResult (step s) (step (s.withStack k)) := by
  obtain ⟨hhalt, hstep⟩ | ⟨hrun, hfetch, hstep⟩ | ⟨w, hrun, hfetch, hstep⟩ := step_cases s
  · rw [hstep, step_of_halted (s := s.withStack k) hhalt]
    exact hlive.next (t := s.clearOut) rfl rfl
  · rw [hstep, step_of_no_fetch (s := s.withStack k) hrun hfetch]
    exact hlive.next (t := s.clearOut.faulted _ _) rfl rfl
  · rw [hstep, step_of_fetch (s := s.withStack k) hrun hfetch]
    cases hdecode : decodeWord w with
    | none =>
      rw [execWord_of_unknown hdecode, execWord_of_unknown hdecode]
      exact .endTick (hlive.next rfl rfl)
    | some i =>
      rw [execWord_of_decode hdecode, execWord_of_decode hdecode]
      exact .endTick (SameLive.exec (s := s.clearOut) hlive i)

end Sys2Proof.Machine

open Sys2Proof Sys2Proof.Machine

/-- Settles O55: with the entries below SP the same, the two ticks take the same branch and answer alike. -/
theorem deadStackEntriesAreUnobservable : Obligations.DeadStackEntriesAreUnobservable := by
  intro s t h
  obtain ⟨k, rfl, hlive⟩ := sameButDeadStack_iff.mp h
  exact hlive.step
end

section
/-! PROOFS. Reset and load (spec 70_reset_and_hazards.md R240, R241): the image of a load region by region, and the load that
the model's reset state is. -/

namespace Sys2Proof.Machine

section image
variable (rest : Memory) (font program : List Byte)

theorem loadImage_font {a : Nat} (h : a < 80) : loadImage rest font program a = font.getD a 0x00#8 := if_pos h

theorem loadImage_program {j : Nat} (h : j < program.length) :
    loadImage rest font program (0x200 + j) = program.getD j 0x00#8 := by
  have hfont : ¬ 0x200 + j < 80 := by omega
  have hprogram : 0x200 ≤ 0x200 + j ∧ 0x200 + j < 0x200 + program.length := by omega
  refine ((if_neg hfont).trans (if_pos hprogram)).trans ?_
  rw [Nat.add_sub_cancel_left]

theorem loadImage_rest {a : Nat} (hfont : 80 ≤ a) (hprogram : ¬ (0x200 ≤ a ∧ a < 0x200 + program.length)) :
    loadImage rest font program a = rest.read a :=
  (if_neg (Nat.not_lt.mpr hfont)).trans (if_neg hprogram)

theorem readByte_loaded_of_lt (draws : Nat) {a : Nat} (ha : a < 4096) :
    (State.loaded rest font program draws).readByte a = loadImage rest font program a := by
  rw [State.readByte_loaded, Memory.read_load _ _ _ ha]

end image

/-- With nothing in the font, the program and the rest but zeros, the loaded memory lists no byte. -/
theorem loadMemory_empty : loadMemory [] (List.replicate 80 0x00#8) [] = [] := by
  have hempty : Memory.wf [] := ⟨List.Pairwise.nil, fun _ hc => nomatch hc⟩
  refine Memory.ext_read (Memory.load_wf ..) hempty fun a => ?_
  by_cases ha : a < 4096
  · rw [Memory.read_load _ _ _ ha]
    by_cases hfont : a < 80
    · rw [loadImage_font _ _ _ hfont, List.getD_eq_getElem?_getD, List.getElem?_replicate, if_pos hfont]
      rfl
    · exact loadImage_rest _ _ _ (by omega) (by simp)
  · exact Memory.read_of_ge (Memory.load_wf ..) (by omega)

end Sys2Proof.Machine

open Sys2Proof Sys2Proof.Machine

/-- Settles O57: the three regions of the image, and the reset state's other fields. -/
theorem resetLoadGivesTheResetState : Obligations.ResetLoadGivesTheResetState := by
  intro rest font program draws
  refine ⟨fun hfont hprogram => ?loads, fun h => ?refuses⟩
  case loads =>
    refine ⟨_, resetLoad_next.mpr ⟨hfont, hprogram, rfl⟩, fun a ha => ?_, fun j hj => ?_, fun a ha ha' hout => ?_,
      fun r => ?_, rfl, rfl, rfl, rfl, rfl, pixelAt_clear, rfl, rfl, rfl, rfl⟩
    · rw [readByte_loaded_of_lt _ _ _ _ (by omega), loadImage_font _ _ _ ha]
    · rw [readByte_loaded_of_lt _ _ _ _ (by omega), loadImage_program _ _ _ hj]
    · rw [readByte_loaded_of_lt _ _ _ _ ha', loadImage_rest _ _ _ ha hout]
    · simp [State.getV, State.reset]
  case refuses => exact if_pos h

/-- Settles O58: both are the reset state, the one with a memory that lists nothing, the other with a loaded memory that
lists nothing. -/
theorem resetIsTheEmptyLoad : Obligations.ResetIsTheEmptyLoad := by
  refine resetLoad_next.mpr ⟨List.length_replicate, Nat.zero_le _, ?_⟩
  rw [State.loaded, loadMemory_empty]
  rfl
end
